-- ==== Sys2Proof/Word.lean ====
section
/-! DEFINITION. The word types of FSEQ (spec/00_scope.md R15: every value is unsigned). -/

namespace Sys2Proof

/-- A u8: a byte on the wire, in BUF, or an opcode. -/
abbrev Byte := BitVec 8

/-- A u16: LEN, COUNT, a buffer index. -/
abbrev Half := BitVec 16

/-- A u24: a flash address (R80). -/
abbrev Addr := BitVec 24

/-- A u32: a host word (R82). -/
abbrev Word := BitVec 32

/-- A u16 byte offset inside the 64 KiB register window (R50, R82). -/
abbrev Offset := BitVec 16

end Sys2Proof
end

