-- ==== Sys2Proof/Config.lean ====
section
/-! DEFINITION. The implementation parameters (spec/00_scope.md R10), the flash parameter profile they
speak of (spec/10_state.md R40 to R42), and the free values. -/

namespace Sys2Proof

/-- UNIT: data bytes per auto-increment write cycle, 1 or 2 and nothing else (R40, R41). -/
inductive WriteUnit where
  | one
  | two
deriving DecidableEq, Repr

/-- FAMILY: the tag of the profile (R42). Value 7 is reserved and never produced, so it is not here. -/
inductive Family where
  | default
  | a
  | b
  | c1
  | c2
  | legacy
  | unknown
deriving DecidableEq, Repr

/-- The flash parameter profile (R40). -/
structure Profile where
  /-- SR_EN: the opcode that permits a status-register write. -/
  srEn : Byte
  /-- PMASK: the protect mask; zero means "not supported". -/
  pmask : Byte
  /-- UNIT: bytes per auto-increment write cycle. -/
  unit : WriteUnit
  /-- WOP: the opcode of an auto-increment programming sequence. -/
  wop : Byte
  /-- FAST: the fast read opcode may be used. -/
  fast : Bool
  /-- AAI: the chip supports auto-increment programming. -/
  aai : Bool
  /-- SECTORS: total erasable sectors; not limited to 4096 (R44, C8). -/
  sectors : Word
  /-- FAMILY: the family that produced the profile. -/
  family : Family
deriving DecidableEq, Repr

/-- The parameters of R10. They are data, constant for a machine (log 1). -/
structure Config where
  bufBytes : Nat
  reservedSectors : Word
  defaultSectorCount : Word
  mfrA : Byte
  mfrB : Byte
  mfrC : Byte
  mfrD : Byte
  cStdDev : Byte
  cExtDev : Byte
  cExtCap : Byte
  c2Sectors : Word
  /-- C1_SECTORS as data: where it differs from the reference function (log 2). -/
  c1Overrides : List (Byte × Word)
  opRdid : Byte
  opWren : Byte
  opWrdi : Byte
  opDbsy : Byte
  opRdidLegacy : Byte
  legacyIdPrefix : List Byte
  legacyIdMatch : Word
  legacySectors : Word
  legacyMask : Byte
  rybyDisable : Bool
  dFallback : Bool
  fill : Byte
  /-- DEFAULT_PROFILE (R43, U11); its SECTORS and FAMILY are those of `Config.resetProfile`. -/
  defaultProfile : Profile
  /-- FSEQ_BASE: the host address of the window (R417, D3). -/
  fseqBase : Nat
deriving DecidableEq, Repr

/-- FREE VALUE (R95, U2): the byte the flash device answers at its n-th unqueued Xfer (log 5). -/
opaque Config.freeByte : Nat → Byte

/-- FREE VALUE (D3): FSEQ_BASE has no reference value (log 3). -/
opaque Config.freeBase : Nat

/-- POLL_SAMPLES, a fixed constant of the source (R10, R260). -/
def pollSamples : Nat := 100

/-- SECTOR_BYTES, a fixed constant of the source (R10, R81). -/
def sectorBytes : Nat := 4096

/-- The reference default profile (R43). -/
def Config.referenceProfile : Profile :=
  { srEn := 0x50, pmask := 0x3C, unit := .two, wop := 0xAD, fast := false, aai := true,
    sectors := 512, family := .default }

/-- The reference values of R10. They claim nothing about any product. -/
def Config.reference : Config :=
  { bufBytes := 4096, reservedSectors := 1, defaultSectorCount := 512,
    mfrA := 0xBF, mfrB := 0xEF, mfrC := 0xC2, mfrD := 0x1F,
    cStdDev := 0x20, cExtDev := 0x25, cExtCap := 0x35, c2Sectors := 512, c1Overrides := [],
    opRdid := 0x9F, opWren := 0x06, opWrdi := 0x04, opDbsy := 0x80, opRdidLegacy := 0x90,
    legacyIdPrefix := [0x00, 0x00, 0x00], legacyIdMatch := 0xBF49BF49, legacySectors := 32,
    legacyMask := 0x0C, rybyDisable := true, dFallback := false, fill := 0x00,
    defaultProfile := Config.referenceProfile, fseqBase := Config.freeBase }

/-- The profile in force at reset: DEFAULT_PROFILE with SECTORS = DEFAULT_SECTOR_COUNT and
FAMILY = DEFAULT (R43). -/
def Config.resetProfile (c : Config) : Profile :=
  { c.defaultProfile with sectors := c.defaultSectorCount, family := .default }

end Sys2Proof
end

