-- ==== Sys2Proof/Syntax.lean ====
section
/-! DEFINITION. The instructions (one constructor per row of spec/opcode_table.json) and the host
program lines (spec/30_encoding.md R135, R136). -/

namespace Sys2Proof

/-- The rows of the opcode table: nine command words (R121) and fifteen flash opcodes, each the first
byte of a wire transaction (R130). A command's operands are the registers ADDR, LEN, BUF (R122), a
transaction's are the sequencer's working registers and the profile (R131): the words carry only ARG. -/
inductive Instr where
  | detect
  | setProtect (arg : Bool)
  | waitReady
  | eraseSector
  | eraseAll
  | write
  | writeByte
  | read
  | readDelim
  | spiWrsr
  | spiPp
  | spiRead
  | spiRdsr
  | spiFastRead
  | spiSe
  | spiEwsr
  | spiAaiA
  | spiAaiLegacy
  | spiCe
  | spiWren
  | spiWrdi
  | spiDbsy
  | spiRdid
  | spiRdidLegacy
deriving DecidableEq, Repr

/-- The width of a host access. Only `word` is admitted (R83). -/
inductive AccessSize where
  | byte
  | half
  | word
deriving DecidableEq, Repr

/-- A host access at an offset of the window: the triple (kind, off, value) of R135, with the size that
R83 checks. -/
inductive HostAccess where
  | read (off : Offset) (size : AccessSize)
  | write (off : Offset) (size : AccessSize) (v : Word)
deriving DecidableEq, Repr

/-- What the host agent still has to do: accesses, the POLL loop of R135, and accesses by absolute host
address, which reach FSEQ only inside the window at FSEQ_BASE (R417). -/
inductive HostStmt where
  | access (a : HostAccess)
  | poll (off : Offset) (mask value : Word)
  | readAt (address : Nat) (size : AccessSize)
  | writeAt (address : Nat) (size : AccessSize) (v : Word)
deriving DecidableEq, Repr

/-- A line of a host program as written (R135, R136), before assembly. Operands are plain numbers: a
value out of range is refused by the assembler, not truncated. -/
inductive HostLine where
  /-- `W32 off, value` -/
  | w32 (off value : Nat)
  /-- `R32 off` -/
  | r32 (off : Nat)
  /-- `POLL off, mask, value` -/
  | poll (off mask value : Nat)
  /-- `CMD name`, and `CMD SET_PROTECT, on` or `off` -/
  | cmd (i : Instr)
  /-- `ADDR a` -/
  | addr (a : Nat)
  /-- `LEN n` -/
  | len (n : Nat)
  /-- `WAITDONE` -/
  | waitDone
  /-- `CLRDONE` -/
  | clrDone
  /-- `BUFW j, b0, b1, b2, b3`; a byte left out is 0x00 -/
  | bufw (j : Nat) (bytes : List Nat)
  /-- `LIMIT L` -/
  | limit (l : Nat)
deriving DecidableEq, Repr

end Sys2Proof
end

