-- ==== Sys2Proof/WellFormed.lean ====
section
/-! DEFINITION. The checks: which configurations are legal (spec/00_scope.md R10, R11), which profiles
(spec/10_state.md R41), which instructions, and which host program lines (spec/30_encoding.md R136). -/

namespace Sys2Proof

/-- R41. UNIT and FAMILY are legal by their types, and UNIT carries no meaning when AAI = 0, so what is
left is the FAMILY of a profile in force at reset. -/
def Profile.legalDefault (p : Profile) : Bool := decide (p.family = .default)

/-- R11: the four manufacturer codes are pairwise distinct. -/
def Config.mfrDistinct (c : Config) : Bool :=
  decide (c.mfrA ≠ c.mfrB) && decide (c.mfrA ≠ c.mfrC) && decide (c.mfrA ≠ c.mfrD) &&
  decide (c.mfrB ≠ c.mfrC) && decide (c.mfrB ≠ c.mfrD) && decide (c.mfrC ≠ c.mfrD)

/-- R10: BUF_BYTES is a multiple of 4 from 4 to 0xF000. -/
def Config.bufLegal (c : Config) : Bool :=
  decide (4 ≤ c.bufBytes) && decide (c.bufBytes ≤ 0xF000) && decide (c.bufBytes % 4 = 0)

/-- R10: LEGACY_ID_PREFIX has 0 to 4 bytes. -/
def Config.prefixLegal (c : Config) : Bool := decide (c.legacyIdPrefix.length ≤ 4)

/-- R11: a model refuses a configuration that is not legal. -/
def Config.legal (c : Config) : Bool :=
  c.mfrDistinct && c.bufLegal && c.prefixLegal && c.resetProfile.legalDefault

/-- The opcodes FSEQ sends, the ten fixed by the source first and then the five parameters (R130). -/
def Config.opcodes (c : Config) : List Byte :=
  [0x01, 0x02, 0x03, 0x05, 0x0B, 0x20, 0x50, 0xAD, 0xAF, 0xC7,
   c.opWren, c.opWrdi, c.opDbsy, c.opRdid, c.opRdidLegacy]

/-- No two rows of the opcode table have one opcode. R11 does not ask this of a configuration; only the
claims about reading an opcode back do (log 10). -/
def Config.opcodesDistinct (c : Config) : Bool := decide c.opcodes.Nodup

/-- The instructions that are host command words (R121). -/
def Instr.isCommand : Instr → Bool
  | .detect | .setProtect _ | .waitReady | .eraseSector | .eraseAll
  | .write | .writeByte | .read | .readDelim => true
  | .spiWrsr | .spiPp | .spiRead | .spiRdsr | .spiFastRead | .spiSe | .spiEwsr | .spiAaiA
  | .spiAaiLegacy | .spiCe | .spiWren | .spiWrdi | .spiDbsy | .spiRdid | .spiRdidLegacy => false

/-- Every term of `Instr` is a legal instruction: a word that R123 calls illegal has no term. -/
def Instr.wellFormed : Instr → Bool
  | .detect | .setProtect _ | .waitReady | .eraseSector | .eraseAll
  | .write | .writeByte | .read | .readDelim => true
  | .spiWrsr | .spiPp | .spiRead | .spiRdsr | .spiFastRead | .spiSe | .spiEwsr | .spiAaiA
  | .spiAaiLegacy | .spiCe | .spiWren | .spiWrdi | .spiDbsy | .spiRdid | .spiRdidLegacy => true

/-- R136: "A pseudo-instruction that would pass a value out of range is refused by the assembler". -/
def HostLine.wellFormed : HostLine → Bool
  | .w32 off value => decide (off < 0x10000) && decide (value < 0x100000000)
  | .r32 off => decide (off < 0x10000)
  | .poll off mask value =>
    decide (off < 0x10000) && decide (mask < 0x100000000) && decide (value < 0x100000000)
  | .cmd i => i.isCommand
  | .addr a => decide (a < 0x1000000)
  | .len n => decide (n < 0x10000)
  | .waitDone => true
  | .clrDone => true
  | .bufw j bytes =>
    decide (j % 4 = 0) && decide (0x1000 + j < 0x10000) && decide (bytes.length ≤ 4) &&
    bytes.all (fun b => decide (b < 0x100))
  | .limit l => decide (l < 0x10000)

end Sys2Proof
end

