-- ==== Sys2Proof/Decode.lean ====
section
/-! DEFINITION. The decoder and the encoder of the command word (spec/30_encoding.md R121, R123) and of
the flash opcodes (R130). -/

namespace Sys2Proof

/-- Why a word is no instruction: the three cases of R123 for a command word, and for an opcode byte that
R130 does not list. -/
inductive Illegal where
  /-- CODE is 0x00 or in 0x0A to 0xFF -/
  | code
  /-- bits [31:9] are not all 0 -/
  | reservedBits
  /-- ARG = 1 and CODE is not 0x02 -/
  | arg
  /-- a byte that is no flash opcode of R130 -/
  | opcode
  /-- neither 32 bits nor 8 bits long -/
  | length
deriving DecidableEq, Repr

/-- CMD[7:0] (R51). -/
def cmdCode (w : Word) : Byte := w.extractLsb' 0 8

/-- CMD[8] (R51). -/
def cmdArg (w : Word) : Bool := w.getLsbD 8

/-- CMD[31:9] (R51). -/
def cmdReserved (w : Word) : BitVec 23 := w.extractLsb' 9 23

/-- The instruction of a CODE that takes no ARG (R121). -/
def decodeCode (code : Byte) : Except Illegal Instr :=
  if code = 0x01 then .ok .detect
  else if code = 0x03 then .ok .waitReady
  else if code = 0x04 then .ok .eraseSector
  else if code = 0x05 then .ok .eraseAll
  else if code = 0x06 then .ok .write
  else if code = 0x07 then .ok .writeByte
  else if code = 0x08 then .ok .read
  else if code = 0x09 then .ok .readDelim
  else .error .code

/-- The command word (R121, R123). -/
def decodeWord (w : Word) : Except Illegal Instr :=
  if cmdReserved w ≠ 0 then .error .reservedBits
  else if cmdCode w = 0x02 then .ok (.setProtect (cmdArg w))
  else
    match decodeCode (cmdCode w) with
    | .ok i => if cmdArg w then .error .arg else .ok i
    | .error e => .error e

/-- The flash opcode of a wire transaction (R130), the opcodes fixed by the source first. A parameter
that equals an earlier one names the earlier row (log 10). -/
def decodeOpcode (c : Config) (b : Byte) : Except Illegal Instr :=
  if b = 0x01 then .ok .spiWrsr
  else if b = 0x02 then .ok .spiPp
  else if b = 0x03 then .ok .spiRead
  else if b = 0x05 then .ok .spiRdsr
  else if b = 0x0B then .ok .spiFastRead
  else if b = 0x20 then .ok .spiSe
  else if b = 0x50 then .ok .spiEwsr
  else if b = 0xAD then .ok .spiAaiA
  else if b = 0xAF then .ok .spiAaiLegacy
  else if b = 0xC7 then .ok .spiCe
  else if b = c.opWren then .ok .spiWren
  else if b = c.opWrdi then .ok .spiWrdi
  else if b = c.opDbsy then .ok .spiDbsy
  else if b = c.opRdid then .ok .spiRdid
  else if b = c.opRdidLegacy then .ok .spiRdidLegacy
  else .error .opcode

/-- An instruction as its bits: a command word (layer 1 of R120) or the opcode byte of a wire
transaction (layer 2). -/
inductive Encoded where
  | word (w : Word)
  | opcode (b : Byte)
deriving DecidableEq, Repr

/-- The decoder, total on both layers of R120. -/
def decode (c : Config) : Encoded → Except Illegal Instr
  | .word w => decodeWord w
  | .opcode b => decodeOpcode c b

/-- A command word from its fields, as R121 draws them. -/
def commandWord (arg : Bool) (code : Byte) : Word :=
  (0 : BitVec 23) ++ (BitVec.ofBool arg ++ code)

/-- The bits of an instruction (R121, R130). -/
def encode (c : Config) : Instr → Encoded
  | .detect => .word (commandWord false 0x01)
  | .setProtect arg => .word (commandWord arg 0x02)
  | .waitReady => .word (commandWord false 0x03)
  | .eraseSector => .word (commandWord false 0x04)
  | .eraseAll => .word (commandWord false 0x05)
  | .write => .word (commandWord false 0x06)
  | .writeByte => .word (commandWord false 0x07)
  | .read => .word (commandWord false 0x08)
  | .readDelim => .word (commandWord false 0x09)
  | .spiWrsr => .opcode 0x01
  | .spiPp => .opcode 0x02
  | .spiRead => .opcode 0x03
  | .spiRdsr => .opcode 0x05
  | .spiFastRead => .opcode 0x0B
  | .spiSe => .opcode 0x20
  | .spiEwsr => .opcode 0x50
  | .spiAaiA => .opcode 0xAD
  | .spiAaiLegacy => .opcode 0xAF
  | .spiCe => .opcode 0xC7
  | .spiWren => .opcode c.opWren
  | .spiWrdi => .opcode c.opWrdi
  | .spiDbsy => .opcode c.opDbsy
  | .spiRdid => .opcode c.opRdid
  | .spiRdidLegacy => .opcode c.opRdidLegacy

/-- A table row's bits as `Encoded`: 32 bits are a command word, 8 bits an opcode. -/
def encodedOfTable (nbits w : Nat) : Except Illegal Encoded :=
  if nbits = 32 ∧ w < 2 ^ 32 then .ok (.word (BitVec.ofNat 32 w))
  else if nbits = 8 ∧ w < 2 ^ 8 then .ok (.opcode (BitVec.ofNat 8 w))
  else .error .length

/-- The instruction the decoder reads from a row's bits; the opcodes that are parameters have their
reference values, which are the table's (log 10). -/
def decodeTableWord (nbits w : Nat) : Option Instr :=
  match encodedOfTable nbits w with
  | .ok e =>
    match decode Config.reference e with
    | .ok i => some i
    | .error _ => none
  | .error _ => none

end Sys2Proof
end

