-- ==== Sys2Proof/Machine/State.lean ====
section
/-! DEFINITION. The machine's state as plain data (spec/10_state.md), its faults and refusals, and the
state after reset (spec/70_reset_and_hazards.md R460). -/

namespace Sys2Proof.Machine

open Sys2Proof

/-- Bytes by index, strictly rising; an index not listed has no value (log 7). -/
abbrev Memory := List Host.Cell

/-- STATUS.ERR (R400). Codes 5 to 15 are never produced, so they are not here (U6). -/
inductive ErrCode where
  | ok
  | illegal
  | len
  | locked
  | timeout
deriving DecidableEq, Repr

/-- One entry of the bus event history (R63). -/
inductive BusEvent where
  | sel
  | desel
  /-- byte o sent, byte i received -/
  | xfer (o i : Byte)
  | window
deriving DecidableEq, Repr

/-- A transaction format of R131, with the arguments its sub-sequence was called with. T_AAI1 reads the
working register a, and every data byte is read from BUF when it is sent. -/
inductive Fmt where
  /-- T_1 -/
  | t1
  /-- T_WRSR: the status byte v -/
  | wrsr (v : Byte)
  /-- T_SE -/
  | se (a : Addr)
  /-- T_PP: m data bytes from BUF index i0 -/
  | pp (a : Addr) (i0 m : Nat)
  /-- T_AAI1: the first chunk, with the address -/
  | aai1
  /-- T_AAIn: a later chunk -/
  | aaiN
  /-- T_READ; with `delim` it stops at the delimiter -/
  | read (a : Addr) (delim : Bool)
  /-- T_FREAD; with `delim` it stops at the delimiter -/
  | fread (a : Addr) (delim : Bool)
  /-- T_RDSR -/
  | rdsr
  /-- T_RDID -/
  | rdid
  /-- T_LID -/
  | lid
deriving DecidableEq, Repr

/-- A wire transaction: its first byte, a flash opcode (R130), and its format (R131). -/
structure Txn where
  op : Byte
  fmt : Fmt
deriving DecidableEq, Repr

/-- The working register an identification byte goes to: id[0..2] or lid[0..3] (R31). -/
inductive IdSlot where
  | id0
  | id1
  | id2
  | lid0
  | lid1
  | lid2
  | lid3
deriving DecidableEq, Repr

/-- What is left of an open transaction before its Deselect, in order. -/
inductive Act where
  /-- Xfer(o), the received byte discarded -/
  | send (o : Byte)
  /-- Xfer(~BufRead(j)) and m - 1 more bytes after it (R305) -/
  | sendBuf (j m : Nat)
  /-- the first Xfer of SendChunk; `two` says that a second one follows, as with UNIT = 2 (R306) -/
  | chunkFirst (two : Bool)
  /-- a data byte of the chunk has been sent: i and n move, then the second Xfer, a data byte or the pad, or
  the Deselect (R164, R306, R308) -/
  | chunkNext (two : Bool)
  /-- Xfer(FILL) into an identification register -/
  | recvId (slot : IdSlot)
  /-- the first status sample of a burst (R261) -/
  | sampleFirst
  /-- a status byte stands in s: publish and test it, then sample again or deselect (R261) -/
  | sampleNext
  /-- the first data Xfer of a read (R340, R344) -/
  | recvFirst (delim : Bool)
  /-- the data byte p has been received: store it, then receive again or deselect (R340, R344) -/
  | recvNext (delim : Bool) (p : Byte)
deriving DecidableEq, Repr

/-- A statement of a command's pseudocode still to be run. -/
inductive Stmt where
  /-- one transaction, Select to Deselect -/
  | txn (t : Txn)
  /-- WaitReady() (R261) -/
  | waitReady
  /-- WaitReady after a burst's Deselect (R261) -/
  | pollEnd
  /-- WaitReady at the label `burst` (R261) -/
  | pollBurst
  /-- DETECT after the identification transaction (R201) -/
  | resolveId
  /-- DETECT after the fallback transaction (R201) -/
  | resolveLegacy
  /-- ProgramAAI after the odd-address pre-step (R306, R311) -/
  | aaiAdvance
  /-- ProgramAAI's `while n > 0` (R306) -/
  | aaiLoop
  /-- READ after its Deselect: COUNT and complete(OK) (R340) -/
  | finishRead
  /-- READ_DELIM after its Deselect: COUNT and complete(OK) (R344) -/
  | finishDelim
  /-- complete(e) (R172) -/
  | complete (e : ErrCode)
deriving DecidableEq, Repr

/-- The point reached in the running command's pseudocode, the `pos` of R32. -/
inductive Pos where
  /-- accepted and not yet decoded (R161, R163) -/
  | start
  /-- between transactions: the statements still to be run -/
  | at (todo : List Stmt)
  /-- inside transaction t: what is left of it, then the statements after it -/
  | wire (t : Txn) (acts : List Act) (todo : List Stmt)
deriving DecidableEq, Repr

/-- The sequencer's phase (R32). The `cmd` of Run(cmd, pos) is the register CMD, which cannot change
while a command runs (R162). -/
inductive Phase where
  | idle
  | run (pos : Pos)
deriving DecidableEq, Repr

/-- The hidden working registers (R31) and the operand snapshot of R161. -/
structure Work where
  opAddr : Addr
  opLen : Half
  a : Addr
  n : Half
  i : Half
  k : Nat
  bursts : Nat
  s : Byte
  id0 : Byte
  id1 : Byte
  id2 : Byte
  lid0 : Byte
  lid1 : Byte
  lid2 : Byte
  lid3 : Byte
deriving DecidableEq, Repr

/-- The working registers outside a command, where they hold no value and nothing reads them
(R31, U4): DESIGN CHOICE zero (log 6). -/
def Work.blank : Work :=
  { opAddr := 0, opLen := 0, a := 0, n := 0, i := 0, k := 0, bursts := 0, s := 0,
    id0 := 0, id1 := 0, id2 := 0, lid0 := 0, lid1 := 0, lid2 := 0, lid3 := 0 }

/-- RefChip's contents: the byte every unlisted address holds, and the bytes that differ from it. -/
structure ChipMem where
  fillByte : Byte
  cells : Memory
deriving DecidableEq, Repr

/-- The reference flash device (R96). `sent` is the open transaction's sent bytes, oldest first. -/
structure RefChip where
  m : ChipMem
  wel : Bool
  srwe : Bool
  bp : Byte
  aai : Option Addr
  busyLeft : Nat
  id3 : Byte × Byte × Byte
  lid4 : Byte × Byte × Byte × Byte
  busyPolls : Nat
  sent : List Byte
deriving DecidableEq, Repr

/-- The flash-device agent (R95): any device, given by the answers queued and then by the free bytes from
`drawn` on, or RefChip (log 5). -/
inductive Flash where
  | draws (answers : List Byte) (drawn : Nat)
  | refChip (chip : RefChip)
deriving DecidableEq, Repr

/-- What a host access answered (R82, R83). -/
inductive Response where
  | data (off : Offset) (v : Word)
  | written (off : Offset)
  | busError (off : Offset)
deriving DecidableEq, Repr

/-- Whose move a step is (R18), or a reset from outside (R461). -/
inductive Turn where
  | host
  | sequencer
  | reset
deriving DecidableEq, Repr

/-- The faults a model records (R410, R411). -/
inductive Fault where
  /-- A host access that is not an aligned 32-bit one (R83). Raised by the host port: it is put in
  `State.faults`, FSEQ's state does not change and the machine goes on (R410). Safe: a run that holds
  it is not a good run. -/
  | hostBusError (off : Offset)
  /-- A read of a BUF byte that nothing has written since reset, by the host or by a program command
  (R55, R411, U1). The step ends in this fault. Safe: the hardware goes on with an unspecified byte. -/
  | uninitBufRead (i : Nat)
  /-- A bus event or a completion against the chip-select requirement (R165 to R167, R172, R411). Raised by
  the bus operations. Safe: no command reaches it (R168). -/
  | sequencerInvariant
deriving DecidableEq, Repr

/-- Why a step has no meaning. -/
inductive Refusal where
  /-- An instruction without a meaning yet; raised by Dispatch only. Safe. -/
  | notModelled (mnemonic : String)
  /-- The configuration breaks R11, and "A model refuses an illegal configuration". Raised by `step`.
  Safe. -/
  | illegalConfig
  /-- A sequencer step of a command asked for while the phase is Idle, where none is enabled (R164).
  Raised by a command's meaning; `step` never asks for it. Safe. -/
  | notEnabled
  /-- A bus event asked for as part of a transaction that is not the one the sequencer stands at. Raised
  by a flash opcode's meaning; `step` never asks for it. Safe. -/
  | notThisTransaction
  /-- The pseudocode ran out of statements without completing. Raised by the sequencer; no command
  reaches it. Safe. -/
  | noStatement
deriving DecidableEq, Repr

/-- The state (R30): FSEQ's registers, buffer, profile, hidden state, chip-select and history, and the
model's own fields for the parameters and the agents around FSEQ. -/
structure State where
  /-- the parameters of R10; no step changes them -/
  cfg : Config
  /-- CMD (R51) -/
  cmd : Word
  /-- ADDR (R52) -/
  addr : Addr
  /-- LEN (R53) -/
  len : Half
  /-- STATUS.DONE (R54) -/
  done : Bool
  /-- STATUS.ERR (R54, R400) -/
  err : ErrCode
  /-- STATUS.UNKNOWN_DEV (R54, R217) -/
  unknownDev : Bool
  /-- STATUS.PROFILE_LOCKED (R54, R218) -/
  profileLocked : Bool
  /-- STATUS.BUSYACC (R54, R162) -/
  busyAcc : Bool
  /-- BUF (R55) -/
  buf : Memory
  /-- COUNT (R56) -/
  count : Half
  /-- the profile (R40), of which PROFILE0 and SECTOR_COUNT are views (R57, R44) -/
  profile : Profile
  /-- USABLE_SECTORS (R46) -/
  usableSectors : Word
  /-- JEDEC_ID[23:0] (R47) -/
  jedecId : Addr
  /-- LEGACY_ID (R48) -/
  legacyId : Word
  /-- POLL_CFG.RESTART_LIMIT (R58) -/
  restartLimit : Half
  /-- RESTARTS (R59) -/
  restarts : Word
  /-- LAST_STATUS[7:0] (R61) -/
  lastStatus : Byte
  /-- the sequencer's phase (R32); STATUS.BUSY is its view -/
  phase : Phase
  /-- the working registers (R31) -/
  work : Work
  /-- chip-select, true while asserted (R62); STATUS.CS is its view -/
  cs : Bool
  /-- the bus event history, oldest first (R63) -/
  history : List BusEvent
  /-- the fault set (R410) -/
  faults : List Fault
  /-- the flash-device agent (R95) -/
  flash : Flash
  /-- the host agent: what it still has to do (R135) -/
  host : List HostStmt
  /-- what the host's accesses answered, oldest first -/
  responses : List Response
  /-- whose turn the coming steps are (R18) -/
  sched : List Turn
deriving DecidableEq, Repr

/-- sat_sub of R16: `a - b` if a >= b, else 0. -/
def satSub (a b : Word) : Word := if b ≤ a then a - b else 0

/-- The state R460 gives for a configuration: every register at its reset value, BUF unwritten, the
history empty, and no agent with anything to do. -/
def State.resetOf (c : Config) : State :=
  { cfg := c, cmd := 0, addr := 0, len := 0,
    done := false, err := .ok, unknownDev := false, profileLocked := false, busyAcc := false,
    buf := [], count := 0,
    profile := c.resetProfile, usableSectors := satSub c.defaultSectorCount c.reservedSectors,
    jedecId := 0, legacyId := 0, restartLimit := 0, restarts := 0, lastStatus := 0,
    phase := .idle, work := Work.blank, cs := false, history := [], faults := [],
    flash := .draws [] 0, host := [], responses := [], sched := [] }

/-- FSEQ right after power-on with the reference parameters (R460). -/
def State.reset : State := State.resetOf Config.reference

end Sys2Proof.Machine
end

