-- ==== Sys2Proof/Machine/Memory.lean ====
section
/-! DEFINITION. Bytes by index in canonical form: reading, writing and removing one byte. -/

namespace Sys2Proof.Machine

open Sys2Proof

/-- The canonical form: indexes strictly rising, so equal memories are equal lists. An unlisted index has
no value, so no entry can equal what an unlisted index reads as. -/
abbrev Memory.wf (m : Memory) : Prop := m.Pairwise (fun x y => x.1 < y.1)

/-- The byte at an index, or none where nothing has been written. -/
def Memory.read : Memory → Nat → Option Byte
  | [], _ => none
  | (a, b) :: rest, i => if a = i then some b else Memory.read rest i

/-- Write one byte, keeping the order. -/
def Memory.write : Memory → Nat → Byte → Memory
  | [], i, v => [(i, v)]
  | (a, b) :: rest, i, v =>
    if i < a then (i, v) :: (a, b) :: rest
    else if i = a then (i, v) :: rest
    else (a, b) :: Memory.write rest i v

/-- Take an index off the list. -/
def Memory.erase (m : Memory) (i : Nat) : Memory := m.filter (fun c => c.1 != i)

/-- Write bytes at consecutive indexes. -/
def Memory.writeList : Memory → Nat → List Byte → Memory
  | m, _, [] => m
  | m, i, v :: vs => Memory.writeList (m.write i v) (i + 1) vs

end Sys2Proof.Machine
end

