-- ==== Sys2Proof/Machine/Operands.lean ====
section
/-! DEFINITION. Operand forms: the address bytes of a frame (R84, R240), the data complement (R300), the
lanes of a BUF word (R84), the profiles of the families (R210 to R214), and the bytes of every transaction
format (R131). -/

namespace Sys2Proof.Machine

open Sys2Proof

/-- a[23:16], a[15:8], a[7:0]: "three bytes, most-significant first" (R84 (a), R240). -/
def addrBytes (a : Addr) : List Byte :=
  [a.extractLsb' 16 8, a.extractLsb' 8 8, a.extractLsb' 0 8]

/-- The data complement, `~v` (R15, R300). -/
def complement (v : Byte) : Byte := ~~~v

/-- The auto-increment pad, the physical byte 0xFF, sent without complement (R308, C1). -/
def padByte : Byte := 0xFF

/-- The delimiter of READ_DELIM, the newline character (R344). -/
def delimiter : Byte := 0x0A

/-- The lanes of a host word over BUF: byte j is bits [8j+7 : 8j] (R84 (b)). -/
def wordBytes (v : Word) : List Byte :=
  [v.extractLsb' 0 8, v.extractLsb' 8 8, v.extractLsb' 16 8, v.extractLsb' 24 8]

/-- A host word from its four lanes, lowest first (R84 (b)). -/
def wordOfBytes (b0 b1 b2 b3 : Byte) : Word := b3 ++ b2 ++ b1 ++ b0

/-- m << 16 | d << 8 | c (R201, R47). -/
def joinId (m d c : Byte) : Addr := m ++ d ++ c

/-- r0 << 24 | r1 << 16 | r2 << 8 | r3 (R201, R48). -/
def joinLegacyId (r0 r1 r2 r3 : Byte) : Word := r0 ++ r1 ++ r2 ++ r3

/-- 1 << n on u32 (R15). -/
def oneShl (n : Nat) : Word := (1 : Word) <<< n

/-- C1_SECTORS: the reference function 1 << (c[3:0] + 4) but where the parameter says otherwise
(R10, log 2). -/
def c1Sectors (cfg : Config) (c : Byte) : Word :=
  match cfg.c1Overrides.lookup c with
  | some n => n
  | none => oneShl ((c.extractLsb' 0 4).toNat + 4)

/-- ProfileA(c) (R210). -/
def profileA (c : Byte) : Profile :=
  { srEn := 0x50, pmask := 0x3C, unit := .two, wop := 0xAD, fast := false, aai := true,
    sectors := oneShl ((c.extractLsb' 0 3).toNat + 8), family := .a }

/-- ProfileB(c) (R211). -/
def profileB (cfg : Config) (c : Byte) : Profile :=
  { srEn := cfg.opWren, pmask := 0x1C, unit := .one, wop := 0x02, fast := true, aai := false,
    sectors := oneShl ((c.extractLsb' 0 4).toNat + 4), family := .b }

/-- ProfileC1(c) (R212). -/
def profileC1 (cfg : Config) (c : Byte) : Profile :=
  { srEn := cfg.opWren, pmask := 0x3C, unit := .one, wop := 0x02, fast := true, aai := false,
    sectors := c1Sectors cfg c, family := .c1 }

/-- ProfileC2 (R213). -/
def profileC2 (cfg : Config) : Profile :=
  { srEn := cfg.opWren, pmask := 0x3C, unit := .one, wop := 0x02, fast := true, aai := false,
    sectors := cfg.c2Sectors, family := .c2 }

/-- ProfileLegacy(P): SR_EN and FAST keep P's values (R214). -/
def profileLegacy (cfg : Config) (p : Profile) : Profile :=
  { p with sectors := cfg.legacySectors, unit := .one, wop := 0xAF, pmask := cfg.legacyMask,
           aai := true, family := .legacy }

/-- The profile with FAMILY = UNKNOWN and every other field kept (R215). -/
def profileUnknown (p : Profile) : Profile := { p with family := .unknown }

/-- The bytes of a chunk: one, or two when UNIT = 2 (R131, R306). -/
def chunkActs : WriteUnit → List Act
  | .one => [.chunkFirst false]
  | .two => [.chunkFirst true]

/-- `Frame(op, a)` after its Select: the opcode and three address bytes (R240). -/
def frameActs (op : Byte) (a : Addr) : List Act := .send op :: (addrBytes a).map .send

/-- The Xfers of a transaction, in transmission order (R131). -/
def Txn.acts (cfg : Config) (p : Profile) (w : Work) (t : Txn) : List Act :=
  match t.fmt with
  | .t1 => [.send t.op]
  | .wrsr v => [.send t.op, .send v]
  | .se a => frameActs t.op a
  | .pp a i0 m => frameActs t.op a ++ [.sendBuf i0 m]
  | .aai1 => frameActs t.op w.a ++ chunkActs p.unit
  | .aaiN => .send t.op :: chunkActs p.unit
  | .read a delim => frameActs t.op a ++ [.recvFirst delim]
  | .fread a delim => frameActs t.op a ++ [.send cfg.fill, .recvFirst delim]
  | .rdsr => [.send t.op, .sampleFirst]
  | .rdid => [.send t.op, .recvId .id0, .recvId .id1, .recvId .id2]
  | .lid =>
    .send t.op :: cfg.legacyIdPrefix.map .send ++
      [.recvId .lid0, .recvId .lid1, .recvId .lid2, .recvId .lid3]

/-- Put a received identification byte in its working register (R31, R201). -/
def Work.setId (w : Work) (slot : IdSlot) (r : Byte) : Work :=
  match slot with
  | .id0 => { w with id0 := r }
  | .id1 => { w with id1 := r }
  | .id2 => { w with id2 := r }
  | .lid0 => { w with lid0 := r }
  | .lid1 => { w with lid1 := r }
  | .lid2 => { w with lid2 := r }
  | .lid3 => { w with lid3 := r }

end Sys2Proof.Machine
end

