-- ==== Sys2Proof/Machine/Flags.lean ====
section
/-! DEFINITION. The status and profile words, the write-1-to-clear bits and the saturating counter
(spec/10_state.md R54, R57, R59). -/

namespace Sys2Proof.Machine

open Sys2Proof

/-- STATUS.BUSY: 1 exactly when the phase is Run (R32, R54). -/
def State.busy (s : State) : Bool :=
  match s.phase with
  | .idle => false
  | .run _ => true

/-- The code of STATUS.ERR (R400). -/
def ErrCode.code : ErrCode → BitVec 4
  | .ok => 0
  | .illegal => 1
  | .len => 2
  | .locked => 3
  | .timeout => 4

/-- STATUS as the host reads it (R54): reserved bits read 0. -/
def statusWord (s : State) : Word :=
  (0 : BitVec 21) ++ BitVec.ofBool s.busyAcc ++ BitVec.ofBool s.profileLocked ++
    BitVec.ofBool s.unknownDev ++ s.err.code ++ (0 : BitVec 1) ++ BitVec.ofBool s.cs ++
    BitVec.ofBool s.done ++ BitVec.ofBool s.busy

/-- UNIT as PROFILE0 shows it: 1 or 2 (R57). -/
def unitCode : WriteUnit → BitVec 2
  | .one => 1
  | .two => 2

/-- FAMILY as PROFILE0 shows it (R42). -/
def familyCode : Family → BitVec 3
  | .default => 0
  | .a => 1
  | .b => 2
  | .c1 => 3
  | .c2 => 4
  | .legacy => 5
  | .unknown => 6

/-- PROFILE0 (R57). -/
def profile0 (p : Profile) : Word :=
  (0 : BitVec 1) ++ familyCode p.family ++ BitVec.ofBool p.aai ++ BitVec.ofBool p.fast ++
    unitCode p.unit ++ p.wop ++ p.pmask ++ p.srEn

/-- A host write to STATUS: writing 1 clears DONE and BUSYACC, nothing else changes (R54). -/
def clearW1c (v : Word) (s : State) : State :=
  { s with done := s.done && !v.getLsbD 1, busyAcc := s.busyAcc && !v.getLsbD 10 }

/-- A host access refused while BUSY sets STATUS.BUSYACC (R162). -/
def setBusyAcc (s : State) : State := { s with busyAcc := true }

/-- RESTARTS + 1, staying at 2^32 - 1 (R16, R59). -/
def satIncr (v : Word) : Word := if v = 0xFFFFFFFF then v else v + 1

/-- The status byte says ready: bit 0, the busy bit, is 0 (R261). -/
def ready (status : Byte) : Bool := !status.getLsbD 0

end Sys2Proof.Machine
end

