-- ==== Sys2Proof/Machine/RefChip.lean ====
section
/-! DEFINITION. The flash-device agent: any device (spec/20_memory.md R95) and the reference device RefChip
(R96 to R99), which is the spec's own choice and describes no real chip. -/

namespace Sys2Proof.Machine

open Sys2Proof

/-- M[a] (R96). -/
def ChipMem.read (m : ChipMem) (a : Addr) : Byte :=
  match m.cells.read a.toNat with
  | some b => b
  | none => m.fillByte

/-- M[a] <- v, keeping the form in which no entry equals what an unlisted address holds. -/
def ChipMem.write (m : ChipMem) (a : Addr) (v : Byte) : ChipMem :=
  if v = m.fillByte then { m with cells := m.cells.erase a.toNat }
  else { m with cells := m.cells.write a.toNat v }

/-- "program x with d" means M[x] <- M[x] & d (R98). -/
def ChipMem.program (m : ChipMem) (a : Addr) (d : Byte) : ChipMem := m.write a (m.read a &&& d)

/-- Program (a + j) mod 2^24 with dj for each j (R98). -/
def ChipMem.programList : ChipMem → Addr → List Byte → ChipMem
  | m, _, [] => m
  | m, a, d :: ds => ChipMem.programList (m.program a d) (a + 1) ds

/-- The first address of the sector that holds a: a & 0xFFF000 (R98). -/
def sectorBase (a : Addr) : Nat := (a &&& 0xFFF000).toNat

/-- Set every byte of the sector that holds a to 0xFF (R98). -/
def ChipMem.eraseSector (m : ChipMem) (a : Addr) : ChipMem :=
  { m with
    cells :=
      m.cells.filter (fun c => decide (c.1 < sectorBase a)) ++
      (if m.fillByte = 0xFF then []
       else (List.range sectorBytes).map (fun j => (sectorBase a + j, (0xFF : Byte)))) ++
      m.cells.filter (fun c => decide (sectorBase a + sectorBytes ≤ c.1)) }

/-- Set all M to 0xFF (R98). -/
def ChipMem.eraseAll : ChipMem := { fillByte := 0xFF, cells := [] }

/-- b1<<16 | b2<<8 | b3 (R98). -/
def addrOf (b1 b2 b3 : Byte) : Addr := b1 ++ b2 ++ b3

/-- SR = (BP & 0xFC) | (WEL << 1) | busy (R97). -/
def RefChip.status (chip : RefChip) : Byte :=
  (chip.bp &&& 0xFC) ||| (if chip.wel then 0x02 else 0x00) |||
    (if 0 < chip.busyLeft then 0x01 else 0x00)

/-- The j-th of three identification bytes, 0xFF beyond them (R97). -/
def nth3 (v : Byte × Byte × Byte) : Nat → Byte
  | 0 => v.1
  | 1 => v.2.1
  | 2 => v.2.2
  | _ => 0xFF

/-- The j-th of four identification bytes, 0xFF beyond them (R97). -/
def nth4 (v : Byte × Byte × Byte × Byte) : Nat → Byte
  | 0 => v.1
  | 1 => v.2.1
  | 2 => v.2.2.1
  | 3 => v.2.2.2
  | _ => 0xFF

/-- The read data of an opcode whose data start `skip` bytes after it, the three address bytes first
(R97). `rest` is what was sent after the opcode. -/
def RefChip.readData (chip : RefChip) (skip : Nat) (rest : List Byte) : Byte :=
  match rest with
  | b1 :: b2 :: b3 :: _ =>
    if skip ≤ rest.length then chip.m.read (addrOf b1 b2 b3 + BitVec.ofNat 24 (rest.length - skip))
    else 0xFF
  | _ => 0xFF

/-- The byte RefChip returns for the next Xfer of the open transaction, by its first byte (R97). Where opcodes coincide
the first test decides: the fixed ones, then OP_RDID, then OP_RDID_LEGACY. DESIGN CHOICE (log 25). -/
def RefChip.reply (cfg : Config) (chip : RefChip) : Byte :=
  match chip.sent with
  | [] => 0xFF
  | op :: rest =>
    if op = 0x05 then chip.status
    else if op = 0x03 then chip.readData 3 rest
    else if op = 0x0B then chip.readData 4 rest
    else if op = cfg.opRdid then nth3 chip.id3 rest.length
    else if op = cfg.opRdidLegacy then
      if cfg.legacyIdPrefix.length ≤ rest.length then
        nth4 chip.lid4 (rest.length - cfg.legacyIdPrefix.length)
      else 0xFF
    else 0xFF

/-- A status byte was returned: busy_left <- busy_left - 1 if it was above 0 (R97). -/
def RefChip.countBusy (chip : RefChip) : RefChip :=
  match chip.sent with
  | [] => chip
  | op :: _ => if op = 0x05 then { chip with busyLeft := chip.busyLeft - 1 } else chip

/-- RefChip's side of one Xfer(o) (R97). -/
def RefChip.answer (cfg : Config) (chip : RefChip) (o : Byte) : Byte × RefChip :=
  let chip' := chip.countBusy
  (chip.reply cfg, { chip' with sent := chip.sent ++ [o] })

/-- UNIT of an auto-increment opcode: 0xAD gives 2, 0xAF gives 1 (R98). -/
def aaiUnit (op : Byte) : Option Nat :=
  if op = 0xAD then some 2 else if op = 0xAF then some 1 else none

/-- An auto-increment transaction (R98). Bytes that are not of the form R98 names are ignored (log 16).
With aai = p it programs whatever WEL is, and leaves WEL alone. DESIGN CHOICE (log 24). -/
def RefChip.aaiAct (chip : RefChip) (u : Nat) (rest : List Byte) : RefChip :=
  match chip.aai with
  | some p =>
    if rest.length = u then
      { chip with m := chip.m.programList p rest, aai := some (p + BitVec.ofNat 24 u),
                  busyLeft := chip.busyPolls }
    else chip
  | none =>
    match rest with
    | b1 :: b2 :: b3 :: ds =>
      if chip.wel ∧ ds.length = u then
        { chip with m := chip.m.programList (addrOf b1 b2 b3) ds,
                    aai := some (addrOf b1 b2 b3 + BitVec.ofNat 24 u),
                    busyLeft := chip.busyPolls }
      else chip
    | _ => chip

/-- 0x02 a d0 .. dm (R98). In auto-increment mode it still clears WEL and keeps aai, as
this line of R98 says, where R98's auto-increment line has WEL stay 1. DESIGN CHOICE (log 24). -/
def RefChip.ppAct (chip : RefChip) (rest : List Byte) : RefChip :=
  match rest with
  | b1 :: b2 :: b3 :: d :: ds =>
    if chip.wel then
      { chip with m := chip.m.programList (addrOf b1 b2 b3) (d :: ds), wel := false,
                  busyLeft := chip.busyPolls }
    else chip
  | _ => chip

/-- 0x20 a (R98). In auto-increment mode it still clears WEL and keeps aai, as
this line of R98 says, where R98's auto-increment line has WEL stay 1. DESIGN CHOICE (log 24). -/
def RefChip.seAct (chip : RefChip) (rest : List Byte) : RefChip :=
  match rest with
  | [b1, b2, b3] =>
    if chip.wel then
      { chip with m := chip.m.eraseSector (addrOf b1 b2 b3), wel := false,
                  busyLeft := chip.busyPolls }
    else chip
  | _ => chip

/-- 0x01 v (R98). It loads nothing into busy_left: R98's line for it names no load, where R96 speaks of
"each state-modifying transaction". DESIGN CHOICE (log 23). In auto-increment mode it still clears WEL and
keeps aai, as this line of R98 says, where R98's auto-increment line has WEL stay 1. DESIGN CHOICE (log 24). -/
def RefChip.wrsrAct (chip : RefChip) (rest : List Byte) : RefChip :=
  match rest with
  | [v] => if chip.wel ∨ chip.srwe then { chip with bp := v, wel := false, srwe := false } else chip
  | _ => chip

/-- 0xC7 (R98). In auto-increment mode it still clears WEL and keeps aai, as
this line of R98 says, where R98's auto-increment line has WEL stay 1. DESIGN CHOICE (log 24). -/
def RefChip.ceAct (chip : RefChip) : RefChip :=
  if chip.wel then { chip with m := ChipMem.eraseAll, wel := false, busyLeft := chip.busyPolls }
  else chip

/-- What the transaction's sent bytes do at Desel (R98). Any other opcode is ignored. Where opcodes coincide
the first test decides: OP_WREN, then OP_WRDI, then the fixed ones; an OP_DBSY, OP_RDID or OP_RDID_LEGACY
equal to one of these acts as it. DESIGN CHOICE (log 25). -/
def RefChip.act (cfg : Config) (chip : RefChip) : RefChip :=
  match chip.sent with
  | [] => chip
  | op :: rest =>
    if op = cfg.opWren then { chip with wel := true }
    else if op = cfg.opWrdi then { chip with wel := false, aai := none }
    else if op = 0x50 then { chip with srwe := true }
    else if op = 0x01 then chip.wrsrAct rest
    else if op = 0x20 then chip.seAct rest
    else if op = 0xC7 then chip.ceAct
    else if op = 0x02 then chip.ppAct rest
    else
      match aaiUnit op with
      | some u => chip.aaiAct u rest
      | none => chip

/-- The device sees chip-select asserted: a new transaction. -/
def Flash.select : Flash → Flash
  | .draws answers drawn => .draws answers drawn
  | .refChip chip => .refChip { chip with sent := [] }

/-- The device sees chip-select deasserted; RefChip acts now (R98). -/
def Flash.deselect (cfg : Config) : Flash → Flash
  | .draws answers drawn => .draws answers drawn
  | .refChip chip => .refChip { chip.act cfg with sent := [] }

/-- The byte the device returns for Xfer(o), and the device after it (R95, R167): the next queued answer;
with none queued, a free byte; or RefChip's. -/
def Flash.answer (cfg : Config) (f : Flash) (o : Byte) : Byte × Flash :=
  match f with
  | .draws (r :: rest) drawn => (r, .draws rest drawn)
  | .draws [] drawn => (Config.freeByte drawn, .draws [] (drawn + 1))
  | .refChip chip =>
    let r := chip.answer cfg o
    (r.1, .refChip r.2)

end Sys2Proof.Machine
end

