-- ==== Sys2Proof/Machine/Ops.lean ====
section
/-! DEFINITION. The shared operations: the bus events (spec/40_dispatch.md R165 to R167, R263), acceptance
(R161), completion (R172) and abort (R173), which stand where another machine has exceptions (R409), and
reset (spec/70_reset_and_hazards.md R461). -/

namespace Sys2Proof.Machine

open Sys2Proof

/-- The outcome of a step. -/
abbrev Res := Host.Outcome State Fault Refusal

/-- The state at another point of the running command's pseudocode (R32). -/
def State.withPos (s : State) (p : Pos) : State := { s with phase := .run p }

/-- Select() (R165), which opens transaction t: `acts` is what it will send, `todo` what follows it. -/
def select (t : Txn) (acts : List Act) (todo : List Stmt) (s : State) : Res :=
  if s.cs then .fault .sequencerInvariant
  else .next { s with cs := true, history := s.history ++ [.sel], flash := s.flash.select,
                      phase := .run (.wire t acts todo) }

/-- Deselect() (R166), which ends the transaction. -/
def deselect (todo : List Stmt) (s : State) : Res :=
  if s.cs then
    .next { s with cs := false, history := s.history ++ [.desel],
                   flash := s.flash.deselect s.cfg, phase := .run (.at todo) }
  else .fault .sequencerInvariant

/-- `r <- Xfer(o)` (R167); `k r` is what the pseudocode does with r in the same step. -/
def xfer (o : Byte) (k : Byte → State → State) (s : State) : Res :=
  if s.cs then
    let r := s.flash.answer s.cfg o
    .next (k r.1 { s with history := s.history ++ [.xfer o r.1], flash := r.2 })
  else .fault .sequencerInvariant

/-- Window() (R263): it appends Window and does nothing else. -/
def window (todo : List Stmt) (s : State) : Res :=
  .next { s with history := s.history ++ [.window], phase := .run (.at todo) }

/-- complete(e) (R172), the only entry FSEQ has (R409). The working registers hold no value from here on
(R31, log 6). -/
def complete (e : ErrCode) (s : State) : Res :=
  if s.cs then .fault .sequencerInvariant
  else .next { s with err := e, done := true, phase := .idle, work := Work.blank }

/-- raise Abort(e) (R173): deselect if selected, then complete; nothing else of the command runs. -/
def abort (e : ErrCode) (s : State) : Res :=
  if s.cs then deselect [.complete e] s else complete e s

/-- Acceptance of the command word v, one atomic update (R160, R161). -/
def accept (v : Word) (s : State) : State :=
  { s with cmd := v, done := false, err := .ok, count := 0, restarts := 0,
           phase := .run .start,
           work := { Work.blank with opAddr := s.addr, opLen := s.len } }

/-- Reset (R460, R461): a selected bus is deselected and the history says so; then every register takes
its reset value. The history, the fault set and the agents around FSEQ stay (log 19). -/
def resetAction (s : State) : State :=
  { State.resetOf s.cfg with
    history := if s.cs then s.history ++ [.desel] else s.history
    flash := if s.cs then s.flash.deselect s.cfg else s.flash
    faults := s.faults, host := s.host, responses := s.responses, sched := s.sched }

/-- Open transaction t: the Select of every transaction (R131, R169). -/
def beginTxn (t : Txn) (todo : List Stmt) (s : State) : Res :=
  select t (t.acts s.cfg s.profile s.work) todo s

end Sys2Proof.Machine
end

