-- ==== Sys2Proof/Machine/Transaction.lean ====
section
/-! DEFINITION. Inside a wire transaction: one bus event after another until its Deselect
(spec/30_encoding.md R131, spec/40_dispatch.md R164). What the pseudocode updates after an Xfer belongs to
the next event's step; the assignment `r <- Xfer(o)` itself is part of the Xfer (log 14). -/

namespace Sys2Proof.Machine

open Sys2Proof

/-- `Xfer(~BufRead(i))` of SendChunk (R306). Reading a byte that nothing has written is the fault
UninitBufRead (R55). -/
def sendChunkByte (two : Bool) (t : Txn) (rest : List Act) (todo : List Stmt) (s : State) : Res :=
  match s.buf.read s.work.i.toNat with
  | none => .fault (.uninitBufRead s.work.i.toNat)
  | some b =>
    xfer (complement b) (fun _ s1 => s1.withPos (.wire t (.chunkNext two :: rest) todo)) s

/-- `i <- i + 1; n <- n - 1` of SendChunk, after its Xfer and so in the next event's step (R164, R306). -/
def chunkSent (s : State) : State :=
  { s with work := { s.work with i := s.work.i + 1, n := s.work.n - 1 } }

/-- `s <- Xfer(FILL)` of the poller, the k-th sample of the burst (R261). -/
def sample (t : Txn) (rest : List Act) (todo : List Stmt) (s : State) : Res :=
  xfer s.cfg.fill
    (fun r s1 =>
      { s1 with work := { s1.work with s := r, k := s1.work.k + 1 },
                phase := .run (.wire t (.sampleNext :: rest) todo) }) s

/-- `p <- Xfer(FILL)` of a read (R340, R344). -/
def receive (delim : Bool) (t : Txn) (rest : List Act) (todo : List Stmt) (s : State) : Res :=
  xfer s.cfg.fill (fun r s1 => s1.withPos (.wire t (.recvNext delim r :: rest) todo)) s

/-- `BufWrite(j, ~p)` of a read, and one byte less to receive (R340, R342). -/
def storeData (p : Byte) (s : State) : State :=
  { s with buf := s.buf.write s.work.i.toNat (complement p),
           work := { s.work with i := s.work.i + 1, n := s.work.n - 1 } }

/-- The next bus event of the open transaction t: `acts` is what is left of it, `todo` what follows its
Deselect. -/
def wireStep (t : Txn) (acts : List Act) (todo : List Stmt) (s : State) : Res :=
  match acts with
  | [] => deselect todo s
  | .send o :: rest => xfer o (fun _ s1 => s1.withPos (.wire t rest todo)) s
  | .sendBuf j m :: rest =>
    match s.buf.read j with
    | none => .fault (.uninitBufRead j)
    | some b =>
      xfer (complement b)
        (fun _ s1 =>
          s1.withPos (.wire t (if m ≤ 1 then rest else .sendBuf (j + 1) (m - 1) :: rest) todo)) s
  | .chunkFirst two :: rest => sendChunkByte two t rest todo s
  | .chunkNext two :: rest =>
    if two = false then deselect todo (chunkSent s)
    else if (chunkSent s).work.n = 0 then
      xfer padByte (fun _ s1 => s1.withPos (.wire t rest todo)) (chunkSent s)
    else sendChunkByte false t rest todo (chunkSent s)
  | .recvId slot :: rest =>
    xfer s.cfg.fill
      (fun r s1 => { s1 with work := s1.work.setId slot r, phase := .run (.wire t rest todo) }) s
  | .sampleFirst :: rest => sample t rest todo s
  | .sampleNext :: rest =>
    if ready s.work.s ∨ pollSamples ≤ s.work.k then
      deselect todo { s with lastStatus := s.work.s }
    else sample t rest todo { s with lastStatus := s.work.s }
  | .recvFirst delim :: rest => receive delim t rest todo s
  | .recvNext delim p :: rest =>
    if s.work.n - 1 = 0 ∨ (delim ∧ complement p = delimiter) then deselect todo (storeData p s)
    else receive delim t rest todo (storeData p s)

end Sys2Proof.Machine
end

