-- ==== Sys2Proof/Machine/Resolve.lean ====
section
/-! DEFINITION. The Profile Resolver: how DETECT maps an identification triplet to a profile and commits it
(spec/41_detect.md R201 to R218). -/

namespace Sys2Proof.Machine

open Sys2Proof

/-- What an identification triplet calls for (R201). -/
inductive Ident where
  /-- a known triplet and its profile -/
  | found (p : Profile)
  /-- manufacturer D without the fallback (R208) -/
  | noHandling
  /-- an unrecognized triplet: the fallback transaction (R206) -/
  | fallback
deriving DecidableEq, Repr

/-- The tests of R201 in their order; the first one that holds wins. -/
def identify (cfg : Config) (m d c : Byte) : Ident :=
  if m = cfg.mfrA then .found (profileA c)
  else if m = cfg.mfrB then .found (profileB cfg c)
  else if m = cfg.mfrC ∧ d = cfg.cExtDev ∧ c = cfg.cExtCap then .found (profileC2 cfg)
  else if m = cfg.mfrC ∧ d = cfg.cStdDev then .found (profileC1 cfg c)
  else if m = cfg.mfrD ∧ cfg.dFallback = false then .noHandling
  else .fallback

/-- commit(P, unknown) without its complete(OK): the profile, its published count, the diagnostic and the
lock (R217, R218). -/
def commitProfile (p : Profile) (unknown : Bool) (s : State) : State :=
  { s with profile := p, usableSectors := satSub p.sectors s.cfg.reservedSectors,
           unknownDev := unknown, profileLocked := true }

/-- DETECT from the identification transaction's Deselect on (R201, R202). -/
def resolveId (rest : List Stmt) (s : State) : Res :=
  let s1 := { s with jedecId := joinId s.work.id0 s.work.id1 s.work.id2 }
  match identify s.cfg s.work.id0 s.work.id1 s.work.id2 with
  | .found p => complete .ok (commitProfile p false s1)
  | .noHandling => complete .ok (commitProfile (profileUnknown s.profile) true s1)
  | .fallback => beginTxn { op := s.cfg.opRdidLegacy, fmt := .lid } (.resolveLegacy :: rest) s1

/-- DETECT from the fallback transaction's Deselect on (R201, R206, R214, R215). -/
def resolveLegacy (s : State) : Res :=
  let id := joinLegacyId s.work.lid0 s.work.lid1 s.work.lid2 s.work.lid3
  let s1 := { s with legacyId := id }
  if id = s.cfg.legacyIdMatch then
    complete .ok (commitProfile (profileLegacy s.cfg s.profile) false s1)
  else complete .ok (commitProfile (profileUnknown s.profile) true s1)

end Sys2Proof.Machine
end

