-- ==== Sys2Proof/Machine/Sequencer.lean ====
section
/-! DEFINITION. Between transactions: the statements of the pseudocode (spec/40_dispatch.md R164), the
poller (spec/43_wait.md R261), the auto-increment stream (spec/45_program.md R306), and the one shape that
every command's meaning has. -/

namespace Sys2Proof.Machine

open Sys2Proof

/-- The status-register read of one burst (R261). -/
def rdsrTxn : Txn := { op := 0x05, fmt := .rdsr }

/-- WriteEnable() (R169). -/
def wrenTxn (cfg : Config) : Txn := { op := cfg.opWren, fmt := .t1 }

/-- WriteDisable() (R169). -/
def wrdiTxn (cfg : Config) : Txn := { op := cfg.opWrdi, fmt := .t1 }

/-- The first chunk's transaction, with the address (R306). -/
def aaiFirstTxn (p : Profile) : Txn := { op := p.wop, fmt := .aai1 }

/-- A later chunk's transaction (R306). -/
def aaiNextTxn (p : Profile) : Txn := { op := p.wop, fmt := .aaiN }

/-- WaitReady at the label `burst`: Select of the next burst, no sample taken yet (R261). -/
def beginBurst (rest : List Stmt) (s : State) : Res :=
  beginTxn rdsrTxn (.pollEnd :: rest) { s with work := { s.work with k := 0 } }

/-- WaitReady from its first line: `bursts <- 0` (R261). -/
def beginWait (rest : List Stmt) (s : State) : Res :=
  beginBurst rest { s with work := { s.work with bursts := 0 } }

/-- WaitReady after an exhausted burst: give up at the bound, or count a restart and give the window
(R261, R262, R263). -/
def pollRestart (rest : List Stmt) (s : State) : Res :=
  let s1 := { s with work := { s.work with bursts := s.work.bursts + 1 } }
  if s.restartLimit ≠ 0 ∧ s.restartLimit.toNat ≤ s1.work.bursts then abort .timeout s1
  else window (.pollBurst :: rest) { s1 with restarts := satIncr s1.restarts }

/-- The chunks of ProgramAAI from the first one on: its transaction, its wait, the loop (R306). -/
def chunkStmts (p : Profile) : List Stmt := [.txn (aaiFirstTxn p), .waitReady, .aaiLoop]

/-- `a <- (a + 1) mod 2^24; i <- 1; n <- n - 1` after the odd-address pre-step (R306, R311). -/
def advance (s : State) : State :=
  { s with work := { s.work with a := s.work.a + 1, i := 1, n := s.work.n - 1 } }

/-- Run the pseudocode between transactions, up to and including the next bus event or completion
(R164). -/
def resume : List Stmt → State → Res
  | [], _ => .refused .noStatement
  | .txn t :: rest, s => beginTxn t rest s
  | .waitReady :: rest, s => beginWait rest s
  | .pollEnd :: rest, s => if ready s.work.s then resume rest s else pollRestart rest s
  | .pollBurst :: rest, s => beginBurst rest s
  | .resolveId :: rest, s => resolveId rest s
  | .resolveLegacy :: _, s => resolveLegacy s
  | .aaiAdvance :: rest, s =>
    if (advance s).work.n = 0 then resume rest (advance s)
    else beginTxn (wrenTxn s.cfg) (chunkStmts s.profile ++ rest) (advance s)
  | .aaiLoop :: rest, s =>
    if s.work.n = 0 then beginTxn (wrdiTxn s.cfg) rest s
    else beginTxn (aaiNextTxn s.profile) (.waitReady :: .aaiLoop :: rest) s
  | .finishRead :: _, s => complete .ok { s with count := s.work.opLen }
  | .finishDelim :: _, s => complete .ok { s with count := s.work.i }
  | .complete e :: _, s => complete e s

/-- A command's pseudocode from its start: what it puts in the working registers, and its statements. -/
abbrev Program := State → Work × List Stmt

/-- One sequencer step of a command (R164): from the start its own pseudocode, from any later point the
rest of it. In Idle no sequencer step is enabled. -/
def runCommand (program : Program) (s : State) : Res :=
  match s.phase with
  | .idle => .refused .notEnabled
  | .run .start => resume (program s).2 { s with work := (program s).1 }
  | .run (.at todo) => resume todo s
  | .run (.wire t acts todo) => wireStep t acts todo s

/-- One bus event of the transaction the sequencer stands at, where it is one that `mine` accepts. -/
def runTransaction (mine : Txn → Bool) (s : State) : Res :=
  match s.phase with
  | .run (.at (.txn t :: rest)) =>
    if mine t then beginTxn t rest s else .refused .notThisTransaction
  | .run (.wire t acts todo) =>
    if mine t then wireStep t acts todo s else .refused .notThisTransaction
  | _ => .refused .notThisTransaction

end Sys2Proof.Machine
end

