-- ==== Sys2Proof/Machine/Detect.lean ====
section
/-! DEFINITION. DETECT (spec/41_detect.md R201). -/

namespace Sys2Proof.Machine

open Sys2Proof

/-- The identification transaction (R202). -/
def rdidTxn (cfg : Config) : Txn := { op := cfg.opRdid, fmt := .rdid }

/-- DETECT (R201): LOCKED when a DETECT has completed before (R219), else identify and resolve. -/
def detectProgram : Program := fun s =>
  (s.work,
   if s.profileLocked then [.complete .locked]
   else [.txn (rdidTxn s.cfg), .resolveId])

/-- One sequencer step of DETECT (R201, R164). -/
def execDetect (s : State) : Res := runCommand detectProgram s

end Sys2Proof.Machine
end

