-- ==== Sys2Proof/Machine/Erase.lean ====
section
/-! DEFINITION. ERASE_SECTOR and ERASE_ALL (spec/44_erase.md R280, R282). -/

namespace Sys2Proof.Machine

open Sys2Proof

/-- Frame(0x20, a) and its Deselect (R280): the address is sent unchanged (R281). -/
def seTxn (a : Addr) : Txn := { op := 0x20, fmt := .se a }

/-- Txn1(0xC7) (R282). -/
def ceTxn : Txn := { op := 0xC7, fmt := .t1 }

/-- ERASE_SECTOR (R280): no write-disable follows an erase (R281). -/
def eraseSectorProgram : Program := fun s =>
  (s.work, [.txn (wrenTxn s.cfg), .txn (seTxn s.work.opAddr), .waitReady, .complete .ok])

/-- ERASE_ALL (R282). -/
def eraseAllProgram : Program := fun s =>
  (s.work, [.txn (wrenTxn s.cfg), .txn ceTxn, .waitReady, .complete .ok])

/-- One sequencer step of ERASE_SECTOR (R280, R164). -/
def execEraseSector (s : State) : Res := runCommand eraseSectorProgram s

/-- One sequencer step of ERASE_ALL (R282, R164). -/
def execEraseAll (s : State) : Res := runCommand eraseAllProgram s

end Sys2Proof.Machine
end

