-- ==== Sys2Proof/Machine/Program.lean ====
section
/-! DEFINITION. WRITE and WRITE_BYTE (spec/45_program.md R305, R306, R310, R318). -/

namespace Sys2Proof.Machine

open Sys2Proof

/-- Frame(0x02, a), m data bytes from BUF index i0, Deselect (R305): always 0x02, whatever WOP is (R302). -/
def ppTxn (a : Addr) (i0 m : Nat) : Txn := { op := 0x02, fmt := .pp a i0 m }

/-- Txn1(OP_DBSY) (R312). -/
def dbsyTxn (cfg : Config) : Txn := { op := cfg.opDbsy, fmt := .t1 }

/-- ProgramDirect(a, i0, m) (R305). -/
def programDirect (cfg : Config) (a : Addr) (i0 m : Nat) : List Stmt :=
  [.txn (wrenTxn cfg), .txn (ppTxn a i0 m), .waitReady, .txn (wrdiTxn cfg)]

/-- ProgramAAI takes the odd-address pre-step: UNIT = 2 and a[0] = 1 (R306, R311). -/
def oddStart (p : Profile) (a : Addr) : Bool := decide (p.unit = .two) && a.getLsbD 0

/-- ProgramAAI(a, n) (R306); a, n and i stand in the working registers. -/
def programAai (cfg : Config) (p : Profile) (a : Addr) : List Stmt :=
  (if cfg.rybyDisable then [.txn (dbsyTxn cfg)] else []) ++
    (if oddStart p a then programDirect cfg a 0 1 ++ [.aaiAdvance]
     else .txn (wrenTxn cfg) :: chunkStmts p)

/-- WRITE (R310): the LEN check, the zero-length no-op (R315), then the path AAI selects (R302). -/
def writeProgram : Program := fun s =>
  if s.cfg.bufBytes < s.work.opLen.toNat then (s.work, [.complete .len])
  else if s.work.opLen = 0 then (s.work, [.complete .ok])
  else if s.profile.aai then
    ({ s.work with a := s.work.opAddr, n := s.work.opLen, i := 0 },
     programAai s.cfg s.profile s.work.opAddr ++ [.complete .ok])
  else (s.work, programDirect s.cfg s.work.opAddr 0 s.work.opLen.toNat ++ [.complete .ok])

/-- WRITE_BYTE (R318): ProgramDirect of BUF[0] whatever the profile is; LEN is not looked at. -/
def writeByteProgram : Program := fun s =>
  (s.work, programDirect s.cfg s.work.opAddr 0 1 ++ [.complete .ok])

/-- One sequencer step of WRITE (R310, R164). -/
def execWrite (s : State) : Res := runCommand writeProgram s

/-- One sequencer step of WRITE_BYTE (R318, R164). -/
def execWriteByte (s : State) : Res := runCommand writeByteProgram s

end Sys2Proof.Machine
end

