-- ==== Sys2Proof/Machine/Protect.lean ====
section
/-! DEFINITION. SET_PROTECT (spec/42_frame_protect.md R245). -/

namespace Sys2Proof.Machine

open Sys2Proof

/-- Txn1(SR_EN), which unlocks status-register writes (R245). -/
def srEnTxn (p : Profile) : Txn := { op := p.srEn, fmt := .t1 }

/-- The status byte SET_PROTECT writes, raw (R245, R246). -/
def protectByte (p : Profile) (arg : Bool) : Byte := if arg then p.pmask else 0x00

/-- The status-register write (R245). -/
def wrsrTxn (p : Profile) (arg : Bool) : Txn := { op := 0x01, fmt := .wrsr (protectByte p arg) }

/-- SET_PROTECT (R245): with PMASK = 0 no bus event at all (C4). -/
def protectProgram (arg : Bool) : Program := fun s =>
  (s.work,
   if s.profile.pmask = 0 then [.complete .ok]
   else [.txn (srEnTxn s.profile), .txn (wrsrTxn s.profile arg), .complete .ok])

/-- One sequencer step of SET_PROTECT (R245, R164). -/
def execSetProtect (arg : Bool) (s : State) : Res := runCommand (protectProgram arg) s

end Sys2Proof.Machine
end

