-- ==== Sys2Proof/Machine/Read.lean ====
section
/-! DEFINITION. READ and READ_DELIM (spec/46_read.md R340, R341, R344). -/

namespace Sys2Proof.Machine

open Sys2Proof

/-- ReadFrame(a) and the data bytes after it: the fast framing exactly when FAST = 1 (R341). -/
def readTxn (p : Profile) (a : Addr) (delim : Bool) : Txn :=
  if p.fast then { op := 0x0B, fmt := .fread a delim } else { op := 0x03, fmt := .read a delim }

/-- What READ and READ_DELIM share (R340, R344): the LEN check, the zero-length no-op, the framed read into
BUF from index 0, and `last`, which sets COUNT and completes. -/
def readProgram (delim : Bool) (last : Stmt) : Program := fun s =>
  if s.cfg.bufBytes < s.work.opLen.toNat then (s.work, [.complete .len])
  else if s.work.opLen = 0 then (s.work, [.complete .ok])
  else
    ({ s.work with n := s.work.opLen, i := 0 },
     [.txn (readTxn s.profile s.work.opAddr delim), last])

/-- One sequencer step of READ (R340, R164): COUNT <- op_len. -/
def execRead (s : State) : Res := runCommand (readProgram false .finishRead) s

/-- One sequencer step of READ_DELIM (R344, R164): COUNT <- the bytes stored (R345). -/
def execReadDelim (s : State) : Res := runCommand (readProgram true .finishDelim) s

end Sys2Proof.Machine
end

