-- ==== Sys2Proof/Machine/Wait.lean ====
section
/-! DEFINITION. WAIT_READY (spec/43_wait.md R266). -/

namespace Sys2Proof.Machine

open Sys2Proof

/-- WAIT_READY (R266): the poller alone. -/
def waitProgram : Program := fun s => (s.work, [.waitReady, .complete .ok])

/-- One sequencer step of WAIT_READY (R266, R164). -/
def execWaitReady (s : State) : Res := runCommand waitProgram s

end Sys2Proof.Machine
end

