-- ==== Sys2Proof/Machine/Wire.lean ====
section
/-! DEFINITION. The flash opcodes (spec/30_encoding.md R130, R131): what one bus event of a transaction
with that opcode does. The sequencer stands at one transaction at a time; each meaning below says which
transactions are its own, by the opcode byte and the format of R131 (log 10). -/

namespace Sys2Proof.Machine

open Sys2Proof

/-- A transaction of format T_1 with this opcode. -/
def isT1 (op : Byte) (t : Txn) : Bool := decide (t.op = op) && decide (t.fmt = .t1)

/-- T_AAI1 or T_AAIn with this opcode. -/
def isAai (op : Byte) (t : Txn) : Bool :=
  decide (t.op = op) &&
    match t.fmt with
    | .aai1 | .aaiN => true
    | .t1 | .wrsr _ | .se _ | .pp _ _ _ | .read _ _ | .fread _ _ | .rdsr | .rdid | .lid => false

/-- 0x01, T_WRSR. -/
def isWrsr (t : Txn) : Bool :=
  decide (t.op = 0x01) &&
    match t.fmt with
    | .wrsr _ => true
    | .t1 | .aai1 | .aaiN | .se _ | .pp _ _ _ | .read _ _ | .fread _ _ | .rdsr | .rdid | .lid => false

/-- 0x02, T_PP. -/
def isPp (t : Txn) : Bool :=
  decide (t.op = 0x02) &&
    match t.fmt with
    | .pp _ _ _ => true
    | .t1 | .wrsr _ | .aai1 | .aaiN | .se _ | .read _ _ | .fread _ _ | .rdsr | .rdid | .lid => false

/-- 0x03, T_READ. -/
def isRead (t : Txn) : Bool :=
  decide (t.op = 0x03) &&
    match t.fmt with
    | .read _ _ => true
    | .t1 | .wrsr _ | .aai1 | .aaiN | .se _ | .pp _ _ _ | .fread _ _ | .rdsr | .rdid | .lid => false

/-- 0x0B, T_FREAD. -/
def isFastRead (t : Txn) : Bool :=
  decide (t.op = 0x0B) &&
    match t.fmt with
    | .fread _ _ => true
    | .t1 | .wrsr _ | .aai1 | .aaiN | .se _ | .pp _ _ _ | .read _ _ | .rdsr | .rdid | .lid => false

/-- 0x20, T_SE. -/
def isSe (t : Txn) : Bool :=
  decide (t.op = 0x20) &&
    match t.fmt with
    | .se _ => true
    | .t1 | .wrsr _ | .aai1 | .aaiN | .pp _ _ _ | .read _ _ | .fread _ _ | .rdsr | .rdid | .lid => false

/-- 0x05, T_RDSR. -/
def isRdsr (t : Txn) : Bool := decide (t.op = 0x05) && decide (t.fmt = .rdsr)

/-- OP_RDID, T_RDID. -/
def isRdid (cfg : Config) (t : Txn) : Bool := decide (t.op = cfg.opRdid) && decide (t.fmt = .rdid)

/-- OP_RDID_LEGACY, T_LID. -/
def isLid (cfg : Config) (t : Txn) : Bool :=
  decide (t.op = cfg.opRdidLegacy) && decide (t.fmt = .lid)

/-- 0x01, write status register (T_WRSR): the status byte goes raw (R245, R246). -/
def execSpiWrsr (s : State) : Res := runTransaction isWrsr s

/-- 0x02, page or byte program (T_PP): complemented data bytes from BUF (R305). -/
def execSpiPp (s : State) : Res := runTransaction isPp s

/-- 0x03, standard read (T_READ): complemented data bytes into BUF (R340, R341). -/
def execSpiRead (s : State) : Res := runTransaction isRead s

/-- 0x05, read status (T_RDSR): 1 to 100 samples, until bit 0 is 0 (R261). -/
def execSpiRdsr (s : State) : Res := runTransaction isRdsr s

/-- 0x0B, fast read (T_FREAD): one dummy byte after the address (R341). -/
def execSpiFastRead (s : State) : Res := runTransaction isFastRead s

/-- 0x20, sector erase (T_SE) (R280). -/
def execSpiSe (s : State) : Res := runTransaction isSe s

/-- 0x50, family A's status-register enable (T_1) (R245). -/
def execSpiEwsr (s : State) : Res := runTransaction (isT1 0x50) s

/-- 0xAD, family A's auto-increment program (T_AAI1, T_AAIn) (R306). -/
def execSpiAaiA (s : State) : Res := runTransaction (isAai 0xAD) s

/-- 0xAF, the legacy auto-increment program (T_AAI1, T_AAIn) (R306). -/
def execSpiAaiLegacy (s : State) : Res := runTransaction (isAai 0xAF) s

/-- 0xC7, whole-chip erase (T_1) (R282). -/
def execSpiCe (s : State) : Res := runTransaction (isT1 0xC7) s

/-- OP_WREN, write enable (T_1) (R169). -/
def execSpiWren (s : State) : Res := runTransaction (isT1 s.cfg.opWren) s

/-- OP_WRDI, write disable (T_1) (R169). -/
def execSpiWrdi (s : State) : Res := runTransaction (isT1 s.cfg.opWrdi) s

/-- OP_DBSY, disable the ready/busy line (T_1) (R312). -/
def execSpiDbsy (s : State) : Res := runTransaction (isT1 s.cfg.opDbsy) s

/-- OP_RDID, read identification (T_RDID) (R202). -/
def execSpiRdid (s : State) : Res := runTransaction (isRdid s.cfg) s

/-- OP_RDID_LEGACY, legacy identification (T_LID) (R206). -/
def execSpiRdidLegacy (s : State) : Res := runTransaction (isLid s.cfg) s

end Sys2Proof.Machine
end

