-- ==== Sys2Proof/Machine/Dispatch.lean ====
section
/-! DEFINITION. One arm per instruction: its meaning. -/

namespace Sys2Proof.Machine

open Sys2Proof

-- One sequencer step (spec/40_dispatch.md R164) of the instruction.
def exec (i : Instr) (s : State) : Host.Outcome State Fault Refusal :=
  match i with
  | .detect => Sys2Proof.Machine.execDetect s
  | .setProtect arg => Sys2Proof.Machine.execSetProtect arg s
  | .waitReady => Sys2Proof.Machine.execWaitReady s
  | .eraseSector => Sys2Proof.Machine.execEraseSector s
  | .eraseAll => Sys2Proof.Machine.execEraseAll s
  | .write => Sys2Proof.Machine.execWrite s
  | .writeByte => Sys2Proof.Machine.execWriteByte s
  | .read => Sys2Proof.Machine.execRead s
  | .readDelim => Sys2Proof.Machine.execReadDelim s
  | .spiWrsr => Sys2Proof.Machine.execSpiWrsr s
  | .spiPp => Sys2Proof.Machine.execSpiPp s
  | .spiRead => Sys2Proof.Machine.execSpiRead s
  | .spiRdsr => Sys2Proof.Machine.execSpiRdsr s
  | .spiFastRead => Sys2Proof.Machine.execSpiFastRead s
  | .spiSe => Sys2Proof.Machine.execSpiSe s
  | .spiEwsr => Sys2Proof.Machine.execSpiEwsr s
  | .spiAaiA => Sys2Proof.Machine.execSpiAaiA s
  | .spiAaiLegacy => Sys2Proof.Machine.execSpiAaiLegacy s
  | .spiCe => Sys2Proof.Machine.execSpiCe s
  | .spiWren => Sys2Proof.Machine.execSpiWren s
  | .spiWrdi => Sys2Proof.Machine.execSpiWrdi s
  | .spiDbsy => Sys2Proof.Machine.execSpiDbsy s
  | .spiRdid => Sys2Proof.Machine.execSpiRdid s
  | .spiRdidLegacy => Sys2Proof.Machine.execSpiRdidLegacy s

end Sys2Proof.Machine
end

