-- ==== Sys2Proof/Machine/HostPort.lean ====
section
/-! DEFINITION. The host port: the register map (spec/10_state.md R50 to R61), the accesses (spec/20_memory.md
R82, R83, spec/40_dispatch.md R162), and the host agent's next move (spec/30_encoding.md R135). -/

namespace Sys2Proof.Machine

open Sys2Proof

/-- The BUF index an offset reaches, for an offset in 0x1000 .. 0x1000 + BUF_BYTES - 1 (R50, R55). -/
def bufIndex (cfg : Config) (off : Offset) : Option Nat :=
  if 0x1000 ≤ off.toNat ∧ off.toNat < 0x1000 + cfg.bufBytes then some (off.toNat - 0x1000) else none

/-- A register's current fields, reserved bits 0; an offset without a register reads 0 (R50, R82). -/
def readReg (off : Offset) (s : State) : Word :=
  if off = 0x000 then s.cmd
  else if off = 0x004 then s.addr.zeroExtend 32
  else if off = 0x008 then s.len.zeroExtend 32
  else if off = 0x00C then statusWord s
  else if off = 0x010 then s.count.zeroExtend 32
  else if off = 0x014 then profile0 s.profile
  else if off = 0x018 then s.profile.sectors
  else if off = 0x01C then s.usableSectors
  else if off = 0x020 then s.jedecId.zeroExtend 32
  else if off = 0x024 then s.legacyId
  else if off = 0x028 then s.restartLimit.zeroExtend 32
  else if off = 0x02C then s.restarts
  else if off = 0x030 then s.lastStatus.zeroExtend 32
  else 0

/-- A write that BUSY refuses: nothing changes but BUSYACC (R162). -/
def whenIdle (f : State → State) (s : State) : State := if s.busy then setBusyAcc s else f s

/-- A host write to a register (R51 to R58). RO and unmapped offsets ignore it, also while BUSY, and do not
set BUSYACC (R162). -/
def writeReg (off : Offset) (v : Word) (s : State) : State :=
  if off = 0x000 then whenIdle (accept v) s
  else if off = 0x004 then whenIdle (fun s => { s with addr := v.extractLsb' 0 24 }) s
  else if off = 0x008 then whenIdle (fun s => { s with len := v.extractLsb' 0 16 }) s
  else if off = 0x00C then clearW1c v s
  else if off = 0x028 then whenIdle (fun s => { s with restartLimit := v.extractLsb' 0 16 }) s
  else s

/-- The BUF word at index j, lowest byte first; the first byte nothing has written is the fault
UninitBufRead (R55, R84). -/
def bufWord (m : Memory) (j : Nat) : Except Fault Word :=
  match m.read j with
  | none => .error (.uninitBufRead j)
  | some b0 =>
    match m.read (j + 1) with
    | none => .error (.uninitBufRead (j + 1))
    | some b1 =>
      match m.read (j + 2) with
      | none => .error (.uninitBufRead (j + 2))
      | some b2 =>
        match m.read (j + 3) with
        | none => .error (.uninitBufRead (j + 3))
        | some b3 => .ok (wordOfBytes b0 b1 b2 b3)

/-- MemRead(off, 4) at an admitted offset: what it answers and the state after it (R82, R162). -/
def hostRead (off : Offset) (s : State) : Except Fault (Word × State) :=
  match bufIndex s.cfg off with
  | some j =>
    if s.busy then .ok (0, setBusyAcc s)
    else
      match bufWord s.buf j with
      | .ok v => .ok (v, s)
      | .error f => .error f
  | none => .ok (readReg off s, s)

/-- MemWrite(off, 4, v) at an admitted offset (R82, R162). -/
def hostWrite (off : Offset) (v : Word) (s : State) : State :=
  match bufIndex s.cfg off with
  | some j => whenIdle (fun s => { s with buf := s.buf.writeList j (wordBytes v) }) s
  | none => writeReg off v s

/-- Only aligned 32-bit accesses are admitted (R83). -/
def admitted (off : Offset) (size : AccessSize) : Bool :=
  decide (size = .word) && decide (off.toNat % 4 = 0)

/-- The host sees an answer (R82, R83). -/
def respond (r : Response) (s : State) : State := { s with responses := s.responses ++ [r] }

/-- Put a fault in the fault set, where it stays (R410). -/
def recordFault (f : Fault) (s : State) : State :=
  if f ∈ s.faults then s else { s with faults := s.faults ++ [f] }

/-- An access R83 does not admit: a bus error response, the fault HostBusError recorded, and no change of
FSEQ's state (R83, R410). -/
def busError (off : Offset) (s : State) : State :=
  respond (.busError off) (recordFault (.hostBusError off) s)

/-- One host access, a single step of the host agent (R82). -/
def hostAccess (a : HostAccess) (s : State) : Res :=
  match a with
  | .read off size =>
    if admitted off size then
      match hostRead off s with
      | .ok (v, s1) => .next (respond (.data off v) s1)
      | .error f => .fault f
    else .next (busError off s)
  | .write off size v =>
    if admitted off size then .next (respond (.written off) (hostWrite off v s))
    else .next (busError off s)

/-- One round of POLL (R135): R32 off; with (v & mask) = value the host goes on, else it polls again. -/
def pollRound (off : Offset) (mask value : Word) (rest : List HostStmt) (s : State) : Res :=
  if admitted off .word then
    match hostRead off s with
    | .ok (v, s1) =>
      if v &&& mask = value then .next (respond (.data off v) { s1 with host := rest })
      else .next (respond (.data off v) s1)
    | .error f => .fault f
  else .next (busError off s)

/-- The window offset of an absolute host address, none outside the 64 KiB at FSEQ_BASE (R417). -/
def windowOffset (cfg : Config) (address : Nat) : Option Offset :=
  if cfg.fseqBase ≤ address ∧ address < cfg.fseqBase + 0x10000 then
    some (BitVec.ofNat 16 (address - cfg.fseqBase))
  else none

/-- The host agent's move: the next access of its program. With none left it does nothing. An access
outside the window does not reach FSEQ. -/
def hostStep (s : State) : Res :=
  match s.host with
  | [] => .next s
  | .access a :: rest => hostAccess a { s with host := rest }
  | .poll off mask value :: rest => pollRound off mask value rest s
  | .readAt address size :: rest =>
    match windowOffset s.cfg address with
    | some off => hostAccess (.read off size) { s with host := rest }
    | none => .next { s with host := rest }
  | .writeAt address size v :: rest =>
    match windowOffset s.cfg address with
    | some off => hostAccess (.write off size v) { s with host := rest }
    | none => .next { s with host := rest }

end Sys2Proof.Machine
end

