-- ==== Sys2Proof/Machine/Fetch.lean ====
section
/-! DEFINITION. Whose move a step is (spec/00_scope.md R18), and which instruction a sequencer step runs:
the transaction the sequencer stands at, or the command word (spec/40_dispatch.md R163, R164). -/

namespace Sys2Proof.Machine

open Sys2Proof

/-- The mover of the next step: the first turn listed; with none listed, the sequencer while a command
runs, else the host (log 4). -/
def State.nextTurn (s : State) : Turn :=
  match s.sched with
  | t :: _ => t
  | [] => if s.busy then .sequencer else .host

/-- The turn is taken. -/
def State.popTurn (s : State) : State := { s with sched := s.sched.tail }

/-- The row of the opcode table that a T_1 transaction's opcode names, if any. -/
def t1Instr (c : Config) (op : Byte) : Option Instr :=
  if op = 0x50 then some .spiEwsr
  else if op = 0xC7 then some .spiCe
  else if op = c.opWren then some .spiWren
  else if op = c.opWrdi then some .spiWrdi
  else if op = c.opDbsy then some .spiDbsy
  else none

/-- The row of the opcode table that a transaction belongs to. A profile's SR_EN or WOP may be a byte no
row lists, and then there is none (R130, log 11). -/
def Txn.instr (c : Config) (t : Txn) : Option Instr :=
  match t.fmt with
  | .t1 => t1Instr c t.op
  | .wrsr _ => if t.op = 0x01 then some .spiWrsr else none
  | .se _ => if t.op = 0x20 then some .spiSe else none
  | .pp _ _ _ => if t.op = 0x02 then some .spiPp else none
  | .aai1 | .aaiN =>
    if t.op = 0xAD then some .spiAaiA else if t.op = 0xAF then some .spiAaiLegacy else none
  | .read _ _ => if t.op = 0x03 then some .spiRead else none
  | .fread _ _ => if t.op = 0x0B then some .spiFastRead else none
  | .rdsr => if t.op = 0x05 then some .spiRdsr else none
  | .rdid => if t.op = c.opRdid then some .spiRdid else none
  | .lid => if t.op = c.opRdidLegacy then some .spiRdidLegacy else none

/-- The instruction of a command word, none where R123 calls it illegal. -/
def commandInstr (w : Word) : Option Instr :=
  match decodeWord w with
  | .ok i => some i
  | .error _ => none

/-- The instruction the next sequencer step runs: the row of the transaction it stands at, else the command
word's. -/
def fetch (s : State) : Option Instr :=
  match s.phase with
  | .idle => none
  | .run .start => commandInstr s.cmd
  | .run (.wire t _ _) => t.instr s.cfg
  | .run (.at (.txn t :: _)) => t.instr s.cfg
  | .run (.at _) => commandInstr s.cmd

/-- The pseudocode of an illegal command word: complete(ILLEGAL) (R171). -/
def illegalProgram : Program := fun s => (s.work, [.complete .illegal])

/-- A sequencer step that no row of the table names: none is enabled in Idle (R164); an illegal word
completes at once (R163, R171); a transaction whose opcode no row lists is run as any other. -/
def stepUnnamed (s : State) : Res :=
  match s.phase with
  | .idle => .next s
  | .run _ => runCommand illegalProgram s

/-- The transaction that stands for a flash opcode of the table with zero operands: address 0, BUF index
0, one data byte (log 13). -/
def tableTxn (c : Config) : Instr → Option Txn
  | .spiWrsr => some { op := 0x01, fmt := .wrsr 0 }
  | .spiPp => some { op := 0x02, fmt := .pp 0 0 1 }
  | .spiRead => some { op := 0x03, fmt := .read 0 false }
  | .spiRdsr => some { op := 0x05, fmt := .rdsr }
  | .spiFastRead => some { op := 0x0B, fmt := .fread 0 false }
  | .spiSe => some { op := 0x20, fmt := .se 0 }
  | .spiEwsr => some { op := 0x50, fmt := .t1 }
  | .spiAaiA => some { op := 0xAD, fmt := .aai1 }
  | .spiAaiLegacy => some { op := 0xAF, fmt := .aai1 }
  | .spiCe => some { op := 0xC7, fmt := .t1 }
  | .spiWren => some { op := c.opWren, fmt := .t1 }
  | .spiWrdi => some { op := c.opWrdi, fmt := .t1 }
  | .spiDbsy => some { op := c.opDbsy, fmt := .t1 }
  | .spiRdid => some { op := c.opRdid, fmt := .rdid }
  | .spiRdidLegacy => some { op := c.opRdidLegacy, fmt := .lid }
  | .detect | .setProtect _ | .waitReady | .eraseSector | .eraseAll
  | .write | .writeByte | .read | .readDelim => none

/-- A running sequencer that stands at transaction t, with the bus free. -/
def placeTxn (t : Txn) (s : State) : State :=
  { s with done := false, err := .ok, cs := false, phase := .run (.at [.txn t, .complete .ok]),
           work := { Work.blank with n := 1 } }

/-- The sequencer has the next turn. -/
def giveTurn (s : State) : State := { s with sched := .sequencer :: s.sched }

/-- The state whose next step runs the instruction of these bits: a command word just accepted, or a
transaction about to be opened (log 13). -/
def placeWord (nbits w : Nat) (s : State) : State :=
  if nbits = 32 then giveTurn (accept (BitVec.ofNat 32 w) { s with cs := false })
  else
    match decodeTableWord nbits w with
    | some i =>
      match tableTxn s.cfg i with
      | some t => giveTurn (placeTxn t s)
      | none => s
    | none => s

end Sys2Proof.Machine
end

