-- ==== Sys2Proof/Machine/Step.lean ====
section
/-! DEFINITION. One step of the whole: the host agent's, the sequencer's, or a reset (spec/00_scope.md R18,
spec/40_dispatch.md R164). -/

namespace Sys2Proof.Machine

open Sys2Proof

/-- The sequencer's step: the instruction it stands at. -/
def seqStep (s : State) : Host.Outcome State Fault Refusal :=
  match fetch s with
  | some i => exec i s
  | none => stepUnnamed s

/-- One step. "A model refuses an illegal configuration" (R11). -/
def step (s : State) : Host.Outcome State Fault Refusal :=
  if s.cfg.legal then
    match s.nextTurn with
    | .host => hostStep s.popTurn
    | .sequencer => seqStep s.popTurn
    | .reset => .next (resetAction s.popTurn)
  else .refused .illegalConfig

/-- The state whose next step runs the instruction of these bits (log 13). -/
def State.withFetchWord (s : State) (nbits w : Nat) : State := placeWord nbits w s

end Sys2Proof.Machine
end

