-- ==== Sys2Proof/Machine/HostProgram.lean ====
section
/-! DEFINITION. The host program's assembler (spec/30_encoding.md R135, R136). -/

namespace Sys2Proof.Machine

open Sys2Proof

/-- W32 off, value. -/
def w32 (off : Nat) (v : Word) : HostStmt := .access (.write (BitVec.ofNat 16 off) .word v)

/-- R32 off. -/
def r32 (off : Nat) : HostStmt := .access (.read (BitVec.ofNat 16 off) .word)

/-- The command word of `CMD name` (R136). -/
def commandOf (i : Instr) : Word :=
  match encode Config.reference i with
  | .word w => w
  | .opcode _ => 0

/-- The BUFW word of up to four bytes, lowest first; a byte left out is 0x00 (R136). -/
def bufwWord (bytes : List Nat) : Word :=
  BitVec.ofNat 32 (bytes.getD 3 0 <<< 24 ||| bytes.getD 2 0 <<< 16 ||| bytes.getD 1 0 <<< 8 |||
    bytes.getD 0 0)

/-- The expansion of a line (R136). -/
def expand : HostLine → HostStmt
  | .w32 off value => w32 off (BitVec.ofNat 32 value)
  | .r32 off => r32 off
  | .poll off mask value => .poll (BitVec.ofNat 16 off) (BitVec.ofNat 32 mask) (BitVec.ofNat 32 value)
  | .cmd i => w32 0x000 (commandOf i)
  | .addr a => w32 0x004 (BitVec.ofNat 32 a)
  | .len n => w32 0x008 (BitVec.ofNat 32 n)
  | .waitDone => .poll 0x00C 0x00000003 0x00000002
  | .clrDone => w32 0x00C 0x00000002
  | .bufw j bytes => w32 (0x1000 + j) (bufwWord bytes)
  | .limit l => w32 0x028 (BitVec.ofNat 32 l)

/-- A line out of range "is refused by the assembler, not truncated" (R136). -/
def assembleLine (l : HostLine) : Option HostStmt := if l.wellFormed then some (expand l) else none

/-- A host program, refused if one of its lines is. -/
def assemble : List HostLine → Option (List HostStmt)
  | [] => some []
  | l :: ls =>
    match assembleLine l, assemble ls with
    | some st, some sts => some (st :: sts)
    | _, _ => none

end Sys2Proof.Machine
end

