-- ==== Sys2Proof/Safety.lean ====
section
/-! DEFINITION. The terms the claims are stated in: runs of an instruction, well-bracketed bus traces, good
runs (spec/60_exceptions.md R410), the wire traces of spec/30_encoding.md R131 as lists, and the invariant of
the machine. -/

namespace Sys2Proof.Machine

open Sys2Proof

/-- n sequencer steps of one instruction, stopping at the first fault or refusal. -/
def runInstr (i : Instr) : Nat → State → Res
  | 0, s => .next s
  | n + 1, s =>
    match exec i s with
    | .next t => runInstr i n t
    | .fault f => .fault f
    | .refused r => .refused r

/-- A run is good while its fault set is empty (R410). -/
def State.good (s : State) : Prop := s.faults = []

/-- Whether chip-select is asserted after a trace, none if the trace breaks R165 to R167 or has a Window
inside a transaction (R263). -/
def busScan : Bool → List BusEvent → Option Bool
  | cs, [] => some cs
  | false, .sel :: es => busScan true es
  | true, .desel :: es => busScan false es
  | true, .xfer _ _ :: es => busScan true es
  | false, .window :: es => busScan false es
  | _, _ => none

/-- a2 a1 a0, written out with division (R84 (a)). -/
def addrBytesNat (a : Addr) : List Byte :=
  [BitVec.ofNat 8 (a.toNat / 0x10000), BitVec.ofNat 8 (a.toNat / 0x100), BitVec.ofNat 8 a.toNat]

/-- What the device answers to bytes sent one after another in one transaction, and the device after
them (R95, R167). It may be any device. -/
def Flash.converse (cfg : Config) : Flash → List Byte → List Byte × Flash
  | f, [] => ([], f)
  | f, o :: os =>
    let r := f.answer cfg o
    let q := Flash.converse cfg r.2 os
    (r.1 :: q.1, q.2)

/-- The device's answers to a transaction that sends these bytes. -/
def State.answers (os : List Byte) (s : State) : List Byte := (s.flash.select.converse s.cfg os).1

/-- What a whole transaction that sends these bytes changes, its position and registers apart: the
history, and the device (R165 to R167). -/
def State.afterTxn (os : List Byte) (s : State) : State :=
  { s with history := s.history ++ .sel :: List.zipWith .xfer os (s.answers os) ++ [.desel]
           flash := (s.flash.select.converse s.cfg os).2.deselect s.cfg }

/-- The device's answers to these bytes in the transaction that is open. -/
def State.replies (os : List Byte) (s : State) : List Byte := (s.flash.converse s.cfg os).1

/-- What the rest of the open transaction changes, its position and registers apart, where these bytes are
still to be sent (R166, R167). -/
def State.endTxn (os : List Byte) (s : State) : State :=
  { s with cs := false
           history := s.history ++ List.zipWith .xfer os (s.replies os) ++ [.desel]
           flash := (s.flash.converse s.cfg os).2.deselect s.cfg }

/-- The sent bytes of a burst of j samples (R261). -/
def burstBytes (cfg : Config) (j : Nat) : List Byte := 0x05 :: List.replicate j cfg.fill

/-- The status bytes the device answers to a burst of j samples. -/
def State.samples (j : Nat) (s : State) : List Byte := (s.answers (burstBytes s.cfg j)).tail

/-- After a burst of j samples: LAST_STATUS is the last of them (R261, R265 (g)). -/
def State.afterBurst (j : Nat) (s : State) : State :=
  { s.afterTxn (burstBytes s.cfg j) with lastStatus := (s.samples j).getLastD s.lastStatus }

/-- The busy bit of a status byte is 1 (R261). -/
def busyByte (b : Byte) : Prop := b.toNat % 2 = 1

/-- The busy bit of a status byte is 0 (R261). -/
def readyByte (b : Byte) : Prop := b.toNat % 2 = 0

/-- All 100 samples of the burst that starts here are busy. -/
def State.busyBurst (s : State) : Prop := ∀ b ∈ s.samples 100, busyByte b

/-- Of the burst that starts here the j-th sample is the first ready one. -/
def State.readyAt (j : Nat) (s : State) : Prop :=
  1 ≤ j ∧ j ≤ 100 ∧ ∃ busy last, s.samples j = busy ++ [last] ∧ readyByte last ∧ ∀ b ∈ busy, busyByte b

/-- After a restart and its window (R261, R263). -/
def State.windowed (s : State) : State :=
  { s with restarts := satIncr s.restarts, history := s.history ++ [.window] }

/-- After a full burst, its restart and its window. -/
def State.restarted (s : State) : State := (s.afterBurst 100).windowed

/-- After n full bursts, each followed by its restart and its window. -/
def State.afterRestarts : Nat → State → State
  | 0, s => s
  | n + 1, s => State.afterRestarts n s.restarted

/-- The first n bursts that start here are all busy. -/
def State.busyFor (n : Nat) (s : State) : Prop := ∀ k < n, (s.afterRestarts k).busyBurst

/-- How a wait ends well: after this many restarts, at this sample of the next burst. -/
structure Wait where
  restarts : Nat
  sample : Nat
deriving DecidableEq, Repr

/-- The wait that starts here ends so, within the poll bound (R261, R262). -/
def State.waits (w : Wait) (s : State) : Prop :=
  (s.restartLimit = 0 ∨ w.restarts < s.restartLimit.toNat) ∧ s.busyFor w.restarts ∧
    (s.afterRestarts w.restarts).readyAt w.sample

/-- After such a wait. -/
def State.afterWait (w : Wait) (s : State) : State := (s.afterRestarts w.restarts).afterBurst w.sample

/-- A piece of a command's wire behaviour: a transaction that sends these bytes, or a wait. -/
inductive Piece where
  | txn (os : List Byte)
  | wait (w : Wait)
deriving DecidableEq, Repr

/-- What a piece changes. -/
def Piece.after : Piece → State → State
  | .txn os, s => s.afterTxn os
  | .wait w, s => s.afterWait w

/-- Its sequencer steps: one a bus event (R164). A burst of j samples has j + 3 events, a window one. -/
def Piece.steps : Piece → Nat
  | .txn os => os.length + 2
  | .wait w => 104 * w.restarts + w.sample + 3

/-- The device answers as the piece says. -/
def Piece.holds : Piece → State → Prop
  | .txn _, _ => True
  | .wait w, s => s.waits w

/-- After one piece after another. -/
def afterPieces : List Piece → State → State
  | [], s => s
  | p :: ps, s => afterPieces ps (p.after s)

/-- The steps of the pieces. -/
def pieceSteps : List Piece → Nat
  | [] => 0
  | p :: ps => p.steps + pieceSteps ps

/-- The device answers as each of the pieces says, when its turn comes. -/
def piecesHold : List Piece → State → Prop
  | [], _ => True
  | p :: ps, s => p.holds s ∧ piecesHold ps (p.after s)

/-- A command about to take its first step, the bus free (R161, R172). -/
def State.atStart (s : State) : Prop := s.phase = .run .start ∧ s.cs = false

/-- After `complete(e)`: ERR, DONE, Idle; the working registers hold nothing any more (R172, log 6). -/
def State.completed (e : ErrCode) (s : State) : State :=
  { s with err := e, done := true, phase := .idle, work := Work.blank }

/-- ProgramDirect (R305): write-enable, 0x02 with the address and the complemented data, a wait,
write-disable. -/
def directPieces (cfg : Config) (a : Addr) (data : List Byte) (w : Wait) : List Piece :=
  [.txn [cfg.opWren], .txn ((0x02 : Byte) :: addrBytesNat a ++ data.map (fun b => 0xFF - b)), .wait w,
   .txn [cfg.opWrdi]]

/-- The physical bytes of each chunk (R131, R306, R308): one complemented byte, or two with a last pad of
0xFF. -/
def chunksOf : WriteUnit → List Byte → List (List Byte)
  | _, [] => []
  | .one, b :: bs => [0xFF - b] :: chunksOf .one bs
  | .two, [b] => [[0xFF - b, 0xFF]]
  | .two, b :: b' :: bs => [0xFF - b, 0xFF - b'] :: chunksOf .two bs

/-- The later chunks, each without address and followed by a wait, the k-th by w k (R306 step 3). -/
def laterPieces (wop : Byte) (w : Nat → Wait) : Nat → List (List Byte) → List Piece
  | _, [] => []
  | k, c :: cs => .txn (wop :: c) :: .wait (w k) :: laterPieces wop w (k + 1) cs

/-- ProgramAAI from step 2 on (R306): nothing at all for an empty payload. -/
def streamPieces (cfg : Config) (p : Profile) (a : Addr) (data : List Byte) (w : Nat → Wait) :
    List Piece :=
  match chunksOf p.unit data with
  | [] => []
  | c :: cs =>
    [.txn [cfg.opWren], .txn (p.wop :: addrBytesNat a ++ c), .wait (w 0)] ++
      laterPieces p.wop w 1 cs ++ [.txn [cfg.opWrdi]]

/-- ProgramAAI (R306): the ready/busy disable, the odd-address pre-step with its wait w0, the stream. -/
def aaiPieces (cfg : Config) (p : Profile) (a : Addr) (data : List Byte) (w0 : Wait) (w : Nat → Wait) :
    List Piece :=
  (if cfg.rybyDisable then [.txn [cfg.opDbsy]] else []) ++
    (if p.unit = .two ∧ a.toNat % 2 = 1 then
      directPieces cfg a (data.take 1) w0 ++ streamPieces cfg p (a + 1) (data.drop 1) w
     else streamPieces cfg p a data w)

/-- ReadFrame (R341): 0x0B, the address and a dummy byte exactly when FAST = 1, else 0x03 and the
address. -/
def readHeader (cfg : Config) (p : Profile) (a : Addr) : List Byte :=
  if p.fast then (0x0B : Byte) :: addrBytesNat a ++ [cfg.fill] else (0x03 : Byte) :: addrBytesNat a

/-- The physical data bytes the device answers to a read of n bytes (R340). -/
def State.readData (s : State) (a : Addr) (n : Nat) : List Byte :=
  (s.answers (readHeader s.cfg s.profile a ++ List.replicate n s.cfg.fill)).drop
    (readHeader s.cfg s.profile a).length

/-- The transactions with a fixed byte string: the rows of format T_1, T_WRSR and T_SE (R130, R131). -/
inductive FixedRow (c : Config) : Instr → Txn → List Byte → Prop where
  | ewsr : FixedRow c .spiEwsr { op := 0x50, fmt := .t1 } [0x50]
  | ce : FixedRow c .spiCe { op := 0xC7, fmt := .t1 } [0xC7]
  | wren : FixedRow c .spiWren { op := c.opWren, fmt := .t1 } [c.opWren]
  | wrdi : FixedRow c .spiWrdi { op := c.opWrdi, fmt := .t1 } [c.opWrdi]
  | dbsy : FixedRow c .spiDbsy { op := c.opDbsy, fmt := .t1 } [c.opDbsy]
  | wrsr (v : Byte) : FixedRow c .spiWrsr { op := 0x01, fmt := .wrsr v } [0x01, v]
  | se (a : Addr) : FixedRow c .spiSe { op := 0x20, fmt := .se a } ((0x20 : Byte) :: addrBytesNat a)

/-- BUF holds these bytes from index 0 on. -/
def bufHolds (m : Memory) (data : List Byte) : Prop :=
  ∀ j b, data[j]? = some b → m.read j = some b

/-- The wire behaviour of the commands that wait and are no WAIT_READY, by the waits they meet: the erases
(R280, R282), WRITE_BYTE (R318), and WRITE on the path AAI selects (R302, R310). -/
inductive CommandPieces (s : State) : Instr → List Piece → Prop where
  | eraseSector (w : Wait) : CommandPieces s .eraseSector
      [.txn [s.cfg.opWren], .txn ((0x20 : Byte) :: addrBytesNat s.work.opAddr), .wait w]
  | eraseAll (w : Wait) : CommandPieces s .eraseAll [.txn [s.cfg.opWren], .txn [0xC7], .wait w]
  | writeByte (b : Byte) (w : Wait) (hb : s.buf.read 0 = some b) :
      CommandPieces s .writeByte (directPieces s.cfg s.work.opAddr [b] w)
  | writeDirect (data : List Byte) (w : Wait) (haai : s.profile.aai = false)
      (hlen : data.length = s.work.opLen.toNat) (hne : data ≠ []) (hfit : data.length ≤ s.cfg.bufBytes)
      (hbuf : bufHolds s.buf data) :
      CommandPieces s .write (directPieces s.cfg s.work.opAddr data w)
  | writeAai (data : List Byte) (w0 : Wait) (w : Nat → Wait) (haai : s.profile.aai = true)
      (hlen : data.length = s.work.opLen.toNat) (hne : data ≠ []) (hfit : data.length ≤ s.cfg.bufBytes)
      (hbuf : bufHolds s.buf data) :
      CommandPieces s .write (aaiPieces s.cfg s.profile s.work.opAddr data w0 w)

/-- The position of the first logical 0x0A among received bytes, plus one; their number if there is none
(R345). -/
def delimCount : List Byte → Nat
  | [] => 0
  | p :: ps => if 0xFF - p = 0x0A then 1 else 1 + delimCount ps

/-- The state t with the host's side of s: the operand registers, BUSYACC, the agents around FSEQ. A
sequencer step reads none of it (R161, R89). -/
def State.onto (t s : State) : State :=
  { t with cmd := s.cmd, addr := s.addr, len := s.len, busyAcc := s.busyAcc, faults := s.faults,
           host := s.host, responses := s.responses, sched := s.sched }

/-- An outcome with the host's side of s. -/
def ontoOutcome (r : Res) (s : State) : Res :=
  match r with
  | .next t => .next (t.onto s)
  | .fault f => .fault f
  | .refused e => .refused e

/-- A statement that completes the command, or leads to a completion whatever follows it. -/
def Stmt.closes : Stmt → Bool
  | .complete _ | .finishRead | .finishDelim | .resolveId | .resolveLegacy => true
  | .txn _ | .waitReady | .pollEnd | .pollBurst | .aaiAdvance | .aaiLoop => false

/-- A statement that commits a profile (R218). -/
def Stmt.resolves : Stmt → Bool
  | .resolveId | .resolveLegacy => true
  | .txn _ | .waitReady | .pollEnd | .pollBurst | .aaiAdvance | .aaiLoop
  | .finishRead | .finishDelim | .complete _ => false

/-- A transaction that is neither a read nor a status read; only these wait in a statement list. -/
def Txn.plain (t : Txn) : Bool :=
  match t.fmt with
  | .read _ _ | .fread _ _ | .rdsr => false
  | .t1 | .wrsr _ | .se _ | .pp _ _ _ | .aai1 | .aaiN | .rdid | .lid => true

/-- What may wait in a statement list: a plain transaction, and no completion with TIMEOUT, which only the
poller gives (R402). -/
def Stmt.plain : Stmt → Bool
  | .txn t => t.plain
  | .complete e => decide (e ≠ .timeout)
  | .waitReady | .pollEnd | .pollBurst | .resolveId | .resolveLegacy | .aaiAdvance | .aaiLoop
  | .finishRead | .finishDelim => true

/-- An act that stores a data byte in BUF. -/
def Act.receives : Act → Bool
  | .recvFirst _ | .recvNext _ _ => true
  | .send _ | .sendBuf _ _ | .chunkFirst _ | .chunkNext _ | .recvId _ | .sampleFirst | .sampleNext => false

/-- An act that takes a status sample. -/
def Act.samples : Act → Bool
  | .sampleFirst | .sampleNext => true
  | .send _ | .sendBuf _ _ | .chunkFirst _ | .chunkNext _ | .recvId _ | .recvFirst _
  | .recvNext _ _ => false

/-- An act that sends a byte and changes no working register. -/
def Act.sends : Act → Bool
  | .send _ => true
  | .sendBuf _ _ | .chunkFirst _ | .chunkNext _ | .recvId _ | .sampleFirst | .sampleNext
  | .recvFirst _ | .recvNext _ _ => false

/-- The statements still to be run, at any point of a command. -/
def Phase.todo : Phase → List Stmt
  | .idle => []
  | .run .start => []
  | .run (.at todo) => todo
  | .run (.wire _ _ todo) => todo

/-- What is left of the open transaction. -/
def Phase.acts : Phase → List Act
  | .run (.wire _ acts _) => acts
  | .idle | .run .start | .run (.at _) => []

/-- A transaction is open. -/
def Phase.inWire : Phase → Bool
  | .run (.wire _ _ _) => true
  | .idle | .run .start | .run (.at _) => false

/-- The flash-device agent's data are in canonical form. -/
def Flash.wf : Flash → Prop
  | .draws _ _ => True
  | .refChip chip => chip.m.cells.wf ∧ ∀ c ∈ chip.m.cells, c.2 ≠ chip.m.fillByte

/-- The invariant of the machine: it holds after reset, and every step keeps it. -/
structure Inv (s : State) : Prop where
  /-- the configuration is legal (R11) -/
  legal : s.cfg.legal = true
  /-- BUF is in canonical form -/
  bufWf : s.buf.wf
  /-- BUF has BUF_BYTES bytes (R55) -/
  bufBound : ∀ c ∈ s.buf, c.1 < s.cfg.bufBytes
  /-- chip-select is asserted exactly inside a transaction (R131, R168) -/
  csWire : s.cs = s.phase.inWire
  /-- the bus event history is well-bracketed and ends with chip-select as it is (R165 to R168, R263) -/
  bus : busScan false s.history = some s.cs
  /-- working registers hold nothing between commands (R31) -/
  idleBlank : s.phase = .idle → s.work = Work.blank
  /-- at most one of BUSY and DONE is 1 (R54), and a running command has no error yet (R161) -/
  busyNotDone : s.busy = true → s.done = false ∧ s.err = .ok
  /-- at most 100 samples in a burst (R31, R261) -/
  samples : s.work.k ≤ 100
  /-- a burst whose first sample is still to come has none -/
  firstSample : Act.sampleFirst ∈ s.phase.acts → s.work.k = 0
  /-- only the last act of a transaction takes status samples -/
  sampleLast : s.phase.acts.dropLast.all (fun a => !a.samples) = true
  /-- while data bytes are received they fit in BUF (R340, R401) -/
  receiving : s.phase.acts.any Act.receives = true →
    s.phase.acts.all (fun a => a.receives || a.sends) = true ∧ s.work.n ≠ 0 ∧
      s.work.i.toNat + s.work.n.toNat ≤ s.cfg.bufBytes
  /-- what a running command still has to run ends in a completion (R172) -/
  closes : s.busy = true → s.phase ≠ .run .start → s.phase.todo.any Stmt.closes = true
  /-- only plain statements wait in the statement list -/
  plain : s.phase.todo.all Stmt.plain = true
  /-- USABLE_SECTORS is sat_sub(SECTORS, RESERVED_SECTORS) (R46, R218) -/
  usable : s.usableSectors = satSub s.profile.sectors s.cfg.reservedSectors
  /-- UNKNOWN_DEV is 1 exactly when FAMILY = UNKNOWN (R217) -/
  unknown : s.unknownDev = true ↔ s.profile.family = .unknown
  /-- before a DETECT completes the profile is the default one (R43) -/
  unlocked : s.profileLocked = false → s.profile = s.cfg.resetProfile
  /-- after it FAMILY is not DEFAULT (R42) -/
  locked : s.profileLocked = true → s.profile.family ≠ .default
  /-- only an unlocked profile is being resolved (R219) -/
  resolving : s.phase.todo.any Stmt.resolves = true → s.profileLocked = false
  /-- the device's data are in canonical form -/
  flashWf : s.flash.wf

end Sys2Proof.Machine
end

