-- ==== Sys2Proof/Certificates/Slice0/Obligations.lean ====
section
/-! DEFINITION. The statements for the provers, in the order of the spec's files. `State.completed` also
blanks the working registers, the model's choice (log 6). -/

open Sys2Proof Sys2Proof.Machine

/-- spec/30_encoding.md R121 and R130: the command words and the flash opcodes, each as a literal. The
opcodes that are parameters have their reference values (log 10). -/
def Obligations.TableWordsDecode : Prop :=
  decodeWord 0x00000001 = .ok .detect ∧ decodeWord 0x00000002 = .ok (.setProtect false) ∧
  decodeWord 0x00000102 = .ok (.setProtect true) ∧ decodeWord 0x00000003 = .ok .waitReady ∧
  decodeWord 0x00000004 = .ok .eraseSector ∧ decodeWord 0x00000005 = .ok .eraseAll ∧
  decodeWord 0x00000006 = .ok .write ∧ decodeWord 0x00000007 = .ok .writeByte ∧
  decodeWord 0x00000008 = .ok .read ∧ decodeWord 0x00000009 = .ok .readDelim ∧
  decodeOpcode Config.reference 0x01 = .ok .spiWrsr ∧
  decodeOpcode Config.reference 0x02 = .ok .spiPp ∧
  decodeOpcode Config.reference 0x03 = .ok .spiRead ∧
  decodeOpcode Config.reference 0x05 = .ok .spiRdsr ∧
  decodeOpcode Config.reference 0x0B = .ok .spiFastRead ∧
  decodeOpcode Config.reference 0x20 = .ok .spiSe ∧
  decodeOpcode Config.reference 0x50 = .ok .spiEwsr ∧
  decodeOpcode Config.reference 0xAD = .ok .spiAaiA ∧
  decodeOpcode Config.reference 0xAF = .ok .spiAaiLegacy ∧
  decodeOpcode Config.reference 0xC7 = .ok .spiCe ∧
  decodeOpcode Config.reference 0x06 = .ok .spiWren ∧
  decodeOpcode Config.reference 0x04 = .ok .spiWrdi ∧
  decodeOpcode Config.reference 0x80 = .ok .spiDbsy ∧
  decodeOpcode Config.reference 0x9F = .ok .spiRdid ∧
  decodeOpcode Config.reference 0x90 = .ok .spiRdidLegacy

/-- Decoding and encoding are inverse to each other on every instruction and on all bits: no other word and
no other byte decodes to an instruction. For the opcodes it needs them pairwise distinct (log 10); the
command words need nothing. -/
def Obligations.DecodeInvertsEncode : Prop :=
  ∀ (c : Config) (i : Instr) (e : Encoded),
    (i.wellFormed = true → (i.isCommand = true ∨ c.opcodesDistinct = true) →
      decode c (encode c i) = .ok i) ∧
    (decode c e = .ok i → i.wellFormed = true ∧ encode c i = e)

/-- spec/30_encoding.md R123, spec/40_dispatch.md R171, spec/60_exceptions.md R403: the illegal words are
exactly those with CODE 0x00 or 0x0A to 0xFF, a bit of [31:9], or ARG with another CODE than 0x02; the step
that decodes one completes with ILLEGAL and does nothing else; CMD keeps the word. -/
def Obligations.IllegalWordCompletes : Prop :=
  ∀ w : Word,
    ((∃ e, decodeWord w = .error e) ↔
      (w.toNat % 256 = 0 ∨ 0x0A ≤ w.toNat % 256 ∨ 512 ≤ w.toNat ∨
        (w.toNat / 256 % 2 = 1 ∧ w.toNat % 256 ≠ 2))) ∧
    ∀ s : State, s.atStart → s.cmd = w → (∃ e, decodeWord w = .error e) →
      ∃ work, seqStep s = .next { s with err := .illegal, done := true, phase := .idle, work := work }

/-- A step with the sequencer's turn runs the decoded instruction: the command word's at the start of a
command (spec/40_dispatch.md R163), the opcode's at a transaction of the command. -/
def Obligations.StepRunsDecoded : Prop :=
  ∀ (s : State) (i : Instr), s.cfg.legal = true → s.nextTurn = .sequencer →
    ((s.phase = .run .start ∧ decodeWord s.cmd = .ok i) ∨
      (∃ t acts todo, s.phase = .run (.wire t acts todo) ∧ t.instr s.cfg = some i) ∨
      (∃ t todo, s.phase = .run (.at (.txn t :: todo)) ∧ t.instr s.cfg = some i)) →
    step s = exec i { s with sched := s.sched.tail }

/-- The state of `withFetchWord` runs the instruction of the bits (the model's own convention, log 13):
a command word as the host's write of it leaves it, an opcode as its transaction with zero operands. -/
def Obligations.FetchWordRuns : Prop :=
  ∀ (s : State) (w : Nat) (i : Instr), s.cfg.legal = true →
    (w < 2 ^ 32 → decodeTableWord 32 w = some i →
      step (s.withFetchWord 32 w) = exec i (accept (BitVec.ofNat 32 w) { s with cs := false })) ∧
    (∀ t, s.cfg.opcodesDistinct = true → decodeTableWord 8 w = some i → tableTxn s.cfg i = some t →
      step (s.withFetchWord 8 w) = exec i (placeTxn t s))

/-- Every sequencer step of a running command is a step of its command word's instruction, whichever row of
the table names the step (spec/40_dispatch.md R163, R164). -/
def Obligations.CommandOwnsItsSteps : Prop :=
  ∀ (s : State) (i : Instr), s.busy = true → decodeWord s.cmd = .ok i → seqStep s = exec i s

/-- Every instruction runs (spec/40_dispatch.md R163, R164): from its start, with the bus free, each command
answers a next state, its first Select or its completion; and each row's transaction opens, sending the bytes
of its format (spec/30_encoding.md R131). -/
def Obligations.EveryInstructionStarts : Prop :=
  ∀ (s : State) (i : Instr), s.cs = false →
    (i.isCommand = true → s.phase = .run .start →
      ∃ t, exec i s = .next t ∧
        ((t.busy = true ∧ t.cs = true ∧ t.history = s.history ++ [.sel]) ∨
          (t.busy = false ∧ t.cs = false ∧ t.done = true ∧ t.history = s.history))) ∧
    (∀ t todo, t.instr s.cfg = some i → s.phase = .run (.at (.txn t :: todo)) →
      exec i s = .next
        { s with cs := true, history := s.history ++ [.sel], flash := s.flash.select,
                 phase := .run (.wire t (t.acts s.cfg s.profile s.work) todo) })

/-- spec/70_reset_and_hazards.md R460: what the host reads after reset, for any parameters and with the
reference ones, and the hidden state it names. -/
def Obligations.ResetState : Prop :=
  (∀ c : Config,
    let s := State.resetOf c
    s.phase = .idle ∧ s.cs = false ∧ s.history = [] ∧ s.faults = [] ∧ (∀ i, s.buf.read i = none) ∧
    readReg 0x000 s = 0 ∧ readReg 0x004 s = 0 ∧ readReg 0x008 s = 0 ∧ readReg 0x00C s = 0 ∧
    readReg 0x010 s = 0 ∧ s.profile.family = .default ∧
    s.profile = { c.defaultProfile with sectors := c.defaultSectorCount, family := .default } ∧
    readReg 0x018 s = c.defaultSectorCount ∧
    (readReg 0x01C s).toNat = c.defaultSectorCount.toNat - c.reservedSectors.toNat ∧
    readReg 0x020 s = 0 ∧ readReg 0x024 s = 0 ∧ readReg 0x028 s = 0 ∧ readReg 0x02C s = 0 ∧
    readReg 0x030 s = 0) ∧
  State.reset = State.resetOf Config.reference ∧ readReg 0x014 State.reset = 0x0AAD3C50 ∧
  readReg 0x018 State.reset = 512 ∧ readReg 0x01C State.reset = 511

/-- spec/70_reset_and_hazards.md R461: a reset abandons the command, appends `Desel` if the bus was
selected, puts every register at its reset value, and keeps the history, the parameters, the agents and the
fault set. That the device sees that `Desel` is log 19; where the bus is free the device is untouched. -/
def Obligations.ResetAbandons : Prop :=
  ∀ s : State, s.cfg.legal = true → s.nextTurn = .reset →
    ∃ t, step s = .next t ∧ t.phase = .idle ∧ t.cs = false ∧ (∀ i, t.buf.read i = none) ∧
      (∀ off, readReg off t = readReg off (State.resetOf s.cfg)) ∧
      t.profile = s.cfg.resetProfile ∧
      t.history = (if s.cs then s.history ++ [.desel] else s.history) ∧
      (s.cs = false ∨ (∃ as n, s.flash = .draws as n) → t.flash = s.flash) ∧
      t.cfg = s.cfg ∧ t.faults = s.faults ∧ t.host = s.host ∧ t.responses = s.responses

/-- spec/10_state.md R50, R54, R57 and the other register rules: every aligned 32-bit read outside BUF
answers the register's fields at their places, reserved bits and unmapped offsets as 0, and changes
nothing. The codes of ERR (spec/60_exceptions.md R400), UNIT (R57) and FAMILY (R42) are written out. -/
def Obligations.RegisterReads : Prop :=
  ∀ (s : State) (off : Offset), off.toNat % 4 = 0 →
    (off.toNat < 0x1000 ∨ 0x1000 + s.cfg.bufBytes ≤ off.toNat) →
    ∃ v, hostAccess (.read off .word) s =
        .next { s with responses := s.responses ++ [.data off v] } ∧
      v.toNat =
        (if off.toNat = 0x000 then s.cmd.toNat
         else if off.toNat = 0x004 then s.addr.toNat
         else if off.toNat = 0x008 then s.len.toNat
         else if off.toNat = 0x00C then
           s.busy.toNat + 2 * s.done.toNat + 4 * s.cs.toNat +
             16 * (match s.err with
               | .ok => 0
               | .illegal => 1
               | .len => 2
               | .locked => 3
               | .timeout => 4) +
             256 * s.unknownDev.toNat + 512 * s.profileLocked.toNat + 1024 * s.busyAcc.toNat
         else if off.toNat = 0x010 then s.count.toNat
         else if off.toNat = 0x014 then
           s.profile.srEn.toNat + 0x100 * s.profile.pmask.toNat + 0x10000 * s.profile.wop.toNat +
             0x1000000 * (match s.profile.unit with
               | .one => 1
               | .two => 2) +
             0x4000000 * s.profile.fast.toNat + 0x8000000 * s.profile.aai.toNat +
             0x10000000 * (match s.profile.family with
               | .default => 0
               | .a => 1
               | .b => 2
               | .c1 => 3
               | .c2 => 4
               | .legacy => 5
               | .unknown => 6)
         else if off.toNat = 0x018 then s.profile.sectors.toNat
         else if off.toNat = 0x01C then s.usableSectors.toNat
         else if off.toNat = 0x020 then s.jedecId.toNat
         else if off.toNat = 0x024 then s.legacyId.toNat
         else if off.toNat = 0x028 then s.restartLimit.toNat
         else if off.toNat = 0x02C then s.restarts.toNat
         else if off.toNat = 0x030 then s.lastStatus.toNat
         else 0)

/-- spec/10_state.md R50 to R58: idle writes. ADDR, LEN and POLL_CFG store their low bits, read-only and
unmapped offsets ignore the write; nothing else changes. -/
def Obligations.IdleRegisterWrites : Prop :=
  ∀ (s : State) (off : Offset) (v : Word), s.busy = false → off.toNat % 4 = 0 →
    off ≠ 0x000 → off ≠ 0x00C →
    (off.toNat < 0x1000 ∨ 0x1000 + s.cfg.bufBytes ≤ off.toNat) →
    hostAccess (.write off .word v) s = .next
      { s with addr := if off = 0x004 then BitVec.ofNat 24 v.toNat else s.addr
               len := if off = 0x008 then BitVec.ofNat 16 v.toNat else s.len
               restartLimit := if off = 0x028 then BitVec.ofNat 16 v.toNat else s.restartLimit
               responses := s.responses ++ [.written off] }

/-- spec/10_state.md R54: a write to STATUS, idle or busy, clears DONE and BUSYACC where it has a 1, and
nothing else; it never sets BUSYACC. What the host reads of STATUS afterwards says so bit by bit. -/
def Obligations.StatusWriteClears : Prop :=
  ∀ (s : State) (v : Word),
    ∃ t, hostAccess (.write 0x00C .word v) s = .next t ∧
      readReg 0x00C t = readReg 0x00C s &&& ~~~(v &&& 0x402) ∧
      t = { s with done := t.done, busyAcc := t.busyAcc,
                   responses := s.responses ++ [.written 0x00C] }

/-- spec/40_dispatch.md R160, R161: a write to CMD while idle accepts the word, legal or not, in the host's
own step, as one update; everything R161 does not name is unchanged. The working registers other than
op_addr and op_len are free in this statement. -/
def Obligations.AcceptanceIsAtomic : Prop :=
  ∀ (s : State) (v : Word), s.busy = false →
    ∃ w : Work, w.opAddr = s.addr ∧ w.opLen = s.len ∧
      hostAccess (.write 0x000 .word v) s = .next
        { s with cmd := v, done := false, err := .ok, count := 0, restarts := 0,
                 phase := .run .start, work := w, responses := s.responses ++ [.written 0x000] }

/-- spec/40_dispatch.md R162: what a host access does while BUSY = 1. -/
def Obligations.BusyRefusesHost : Prop :=
  ∀ (s : State) (off : Offset) (v : Word), s.busy = true → off.toNat % 4 = 0 →
    let inBuf := 0x1000 ≤ off.toNat ∧ off.toNat < 0x1000 + s.cfg.bufBytes
    ((off = 0x000 ∨ off = 0x004 ∨ off = 0x008 ∨ off = 0x028 ∨ inBuf) →
      hostAccess (.write off .word v) s =
        .next { s with busyAcc := true, responses := s.responses ++ [.written off] }) ∧
    (inBuf → hostAccess (.read off .word) s =
      .next { s with busyAcc := true, responses := s.responses ++ [.data off 0] }) ∧
    (¬ inBuf →
      hostAccess (.read off .word) s =
        .next { s with responses := s.responses ++ [.data off (readReg off s)] } ∧
      (off ≠ 0x00C → readReg off s = readReg off { s with phase := .idle })) ∧
    (off = 0x00C → hostAccess (.write off .word v) s =
      .next { s with done := s.done && !v.getLsbD 1, busyAcc := s.busyAcc && !v.getLsbD 10,
                     responses := s.responses ++ [.written off] }) ∧
    (off ≠ 0x000 → off ≠ 0x004 → off ≠ 0x008 → off ≠ 0x00C → off ≠ 0x028 → ¬ inBuf →
      hostAccess (.write off .word v) s =
        .next { s with responses := s.responses ++ [.written off] })

/-- spec/10_state.md R55, spec/20_memory.md R84 (b): an idle write of a BUF word puts byte j + k at bits
[8k+7 : 8k], leaves every other byte, and reads back. -/
def Obligations.BufWordLanes : Prop :=
  ∀ (s : State) (off : Offset) (v : Word), s.busy = false → s.cfg.bufLegal = true →
    off.toNat % 4 = 0 → 0x1000 ≤ off.toNat → off.toNat < 0x1000 + s.cfg.bufBytes →
    ∃ t, hostAccess (.write off .word v) s = .next t ∧
      t = { s with buf := t.buf, responses := s.responses ++ [.written off] } ∧
      (∀ k, k < 4 → t.buf.read (off.toNat - 0x1000 + k) =
        some (BitVec.ofNat 8 (v.toNat / 256 ^ k))) ∧
      (∀ i, (i < off.toNat - 0x1000 ∨ off.toNat - 0x1000 + 4 ≤ i) → t.buf.read i = s.buf.read i) ∧
      hostAccess (.read off .word) t =
        .next { t with responses := t.responses ++ [.data off v] }

/-- spec/10_state.md R55, spec/60_exceptions.md R411, spec/45_program.md R316 (f): a BUF byte nothing has
written is a fault to read, for the host, for a program transaction, and for either byte of an auto-increment
chunk, the second one after i and n have moved (R306). Which of a word's bytes is named is the model's choice (the
lowest unwritten one, log 7). -/
def Obligations.UnwrittenByteFaults : Prop :=
  (∀ (s : State) (off : Offset) (k : Nat), s.busy = false → off.toNat % 4 = 0 →
    0x1000 ≤ off.toNat → off.toNat < 0x1000 + s.cfg.bufBytes → k < 4 →
    (∀ l, l < k → ∃ b, s.buf.read (off.toNat - 0x1000 + l) = some b) →
    s.buf.read (off.toNat - 0x1000 + k) = none →
    hostAccess (.read off .word) s = .fault (.uninitBufRead (off.toNat - 0x1000 + k))) ∧
  (∀ (s : State) (t : Txn) (j m : Nat) (rest : List Act) (todo : List Stmt) (i : Instr),
    s.phase = .run (.wire t (.sendBuf j m :: rest) todo) → s.buf.read j = none →
    (i = .write ∨ i = .writeByte) → exec i s = .fault (.uninitBufRead j)) ∧
  (∀ (s : State) (t : Txn) (two : Bool) (rest : List Act) (todo : List Stmt),
    s.phase = .run (.wire t (.chunkFirst two :: rest) todo) → s.buf.read s.work.i.toNat = none →
    exec .write s = .fault (.uninitBufRead s.work.i.toNat)) ∧
  (∀ (s : State) (t : Txn) (rest : List Act) (todo : List Stmt),
    s.phase = .run (.wire t (.chunkNext true :: rest) todo) → s.work.n ≠ 1 →
    s.buf.read (s.work.i + 1).toNat = none →
    exec .write s = .fault (.uninitBufRead (s.work.i + 1).toNat))

/-- spec/20_memory.md R83: an access that is not an aligned 32-bit one is answered with a bus error, is
recorded as a fault, and changes nothing else; an admitted access records no fault. -/
def Obligations.OnlyAlignedWordsAdmitted : Prop :=
  ∀ (s : State) (off : Offset) (size : AccessSize) (v : Word) (a : HostAccess),
    (a = .read off size ∨ a = .write off size v) →
    (¬ (size = .word ∧ off.toNat % 4 = 0) →
      ∃ fs, hostAccess a s =
          .next { s with faults := fs, responses := s.responses ++ [.busError off] } ∧
        ∀ f, f ∈ fs ↔ f ∈ s.faults ∨ f = .hostBusError off) ∧
    (size = .word ∧ off.toNat % 4 = 0 → ∀ t, hostAccess a s = .next t → t.faults = s.faults)

/-- spec/20_memory.md R88, spec/30_encoding.md R135: the host's accesses take effect one at a time, in its
program's order; POLL repeats a read until the masked value is the one it waits for, and keeps its place in
the list until then (log 18). An absolute address reaches FSEQ inside the window of spec/60_exceptions.md
R417; that it does not reach FSEQ outside it and changes nothing is the model's choice (log 3). -/
def Obligations.HostRunsInOrder : Prop :=
  ∀ (s : State) (rest : List HostStmt),
    (∀ a, s.host = .access a :: rest → hostStep s = hostAccess a { s with host := rest }) ∧
    (∀ off mask value v u, s.host = .poll off mask value :: rest →
      hostAccess (.read off .word) s = .next u → u.responses = s.responses ++ [.data off v] →
      hostStep s = .next { u with host := if v &&& mask = value then rest else s.host }) ∧
    (∀ off size, s.host = .readAt (s.cfg.fseqBase + off) size :: rest → off < 0x10000 →
      hostStep s = hostAccess (.read (BitVec.ofNat 16 off) size) { s with host := rest }) ∧
    (∀ off size v, s.host = .writeAt (s.cfg.fseqBase + off) size v :: rest → off < 0x10000 →
      hostStep s = hostAccess (.write (BitVec.ofNat 16 off) size v) { s with host := rest }) ∧
    (∀ off size v, 0x10000 ≤ off →
      (s.host = .readAt (s.cfg.fseqBase + off) size :: rest ∨
        s.host = .writeAt (s.cfg.fseqBase + off) size v :: rest) →
      hostStep s = .next { s with host := rest }) ∧
    (s.host = [] → hostStep s = .next s)

/-- spec/30_encoding.md R136: the pseudo-instructions' expansions, and the refusal of a value out of
range. -/
def Obligations.PseudoInstructionsExpand : Prop :=
  (∀ n, assembleLine (.addr n) =
    if n < 2 ^ 24 then some (.access (.write 0x004 .word (BitVec.ofNat 32 n))) else none) ∧
  (∀ n, assembleLine (.len n) =
    if n < 2 ^ 16 then some (.access (.write 0x008 .word (BitVec.ofNat 32 n))) else none) ∧
  (∀ n, assembleLine (.limit n) =
    if n < 2 ^ 16 then some (.access (.write 0x028 .word (BitVec.ofNat 32 n))) else none) ∧
  assembleLine .waitDone = some (.poll 0x00C 0x00000003 0x00000002) ∧
  assembleLine .clrDone = some (.access (.write 0x00C .word 0x00000002)) ∧
  assembleLine (.cmd (.setProtect true)) = some (.access (.write 0x000 .word 0x00000102)) ∧
  assembleLine (.cmd (.setProtect false)) = some (.access (.write 0x000 .word 0x00000002)) ∧
  assembleLine (.cmd .detect) = some (.access (.write 0x000 .word 0x00000001)) ∧
  assembleLine (.cmd .waitReady) = some (.access (.write 0x000 .word 0x00000003)) ∧
  assembleLine (.cmd .eraseSector) = some (.access (.write 0x000 .word 0x00000004)) ∧
  assembleLine (.cmd .eraseAll) = some (.access (.write 0x000 .word 0x00000005)) ∧
  assembleLine (.cmd .write) = some (.access (.write 0x000 .word 0x00000006)) ∧
  assembleLine (.cmd .writeByte) = some (.access (.write 0x000 .word 0x00000007)) ∧
  assembleLine (.cmd .read) = some (.access (.write 0x000 .word 0x00000008)) ∧
  assembleLine (.cmd .readDelim) = some (.access (.write 0x000 .word 0x00000009)) ∧
  (∀ (w b0 b1 b2 b3 : Nat), 0x1000 + 4 * w < 0x10000 →
    b0 < 256 → b1 < 256 → b2 < 256 → b3 < 256 →
    let at4 := fun v : Nat =>
      some (HostStmt.access (.write (BitVec.ofNat 16 (0x1000 + 4 * w)) .word (BitVec.ofNat 32 v)))
    assembleLine (.bufw (4 * w) []) = at4 0 ∧
    assembleLine (.bufw (4 * w) [b0]) = at4 b0 ∧
    assembleLine (.bufw (4 * w) [b0, b1]) = at4 (b0 + 256 * b1) ∧
    assembleLine (.bufw (4 * w) [b0, b1, b2]) = at4 (b0 + 256 * b1 + 65536 * b2) ∧
    assembleLine (.bufw (4 * w) [b0, b1, b2, b3]) =
      at4 (b0 + 256 * b1 + 65536 * b2 + 16777216 * b3)) ∧
  (∀ (j : Nat) (bs : List Nat),
    (j % 4 ≠ 0 ∨ 0xF000 ≤ j ∨ 4 < bs.length ∨ ∃ b ∈ bs, 256 ≤ b) → assembleLine (.bufw j bs) = none) ∧
  (∀ i : Instr, i.isCommand = false → assembleLine (.cmd i) = none)

/-- The invariant of the machine holds after reset, for every legal configuration, and the reference
configuration is legal. That the working registers are blank, where spec/70_reset_and_hazards.md R460 says
that they hold no value, is the model's choice (log 6). -/
def Obligations.InvariantAtReset : Prop :=
  (∀ c : Config, c.legal = true → Inv (State.resetOf c)) ∧ Inv State.reset

/-- Every step, whoever takes it, keeps the invariant of the machine: well-bracketed bus events and
chip-select (spec/40_dispatch.md R165 to R168), canonical memories, BUF within its bounds (R340), at most
100 samples a burst (R31), at most one of BUSY and DONE (spec/10_state.md R54), the profile and its
published counts (R43, R46, R217). -/
def Obligations.InvariantKept : Prop :=
  ∀ s t : State, Inv s → step s = .next t → Inv t

/-- In every state of the invariant a step answers a next state, or stops at a read of a BUF byte that
nothing has written. No command reaches SequencerInvariant (spec/40_dispatch.md R168), and no step is
refused. -/
def Obligations.OnlyFaultIsUnwrittenByte : Prop :=
  ∀ s : State, Inv s →
    (∃ t, step s = .next t) ∨
    (∃ i, step s = .fault (.uninitBufRead i) ∧ s.buf.read i = none)

/-- The parameters never change, the history only grows (spec/10_state.md R63, spec/70_reset_and_hazards.md
R461), and a recorded fault stays (spec/60_exceptions.md R410). -/
def Obligations.HistoryAndFaultsOnlyGrow : Prop :=
  ∀ s t : State, step s = .next t →
    t.cfg = s.cfg ∧ s.history <+: t.history ∧ (∀ f, f ∈ s.faults → f ∈ t.faults)

/-- spec/40_dispatch.md R164: a sequencer step of a running command performs exactly one bus event, or
completes the command with none. -/
def Obligations.OneEventPerStep : Prop :=
  ∀ s t : State, s.busy = true → seqStep s = .next t →
    (t.busy = true ∧ t.done = s.done ∧ t.err = s.err ∧ ∃ e, t.history = s.history ++ [e]) ∨
    (t.busy = false ∧ t.done = true ∧ t.history = s.history ∧ t.flash = s.flash ∧
      s.cs = false ∧ t.cs = false)

/-- spec/40_dispatch.md R174, R172: only its own completion or a reset ends a command; the host cannot. -/
def Obligations.CommandEndsByCompletionOrReset : Prop :=
  ∀ s t : State, s.busy = true → step s = .next t → t.busy = false →
    s.nextTurn = .reset ∨
    (s.nextTurn = .sequencer ∧ t.done = true ∧ t.cs = false ∧ t.history = s.history)

/-- spec/60_exceptions.md R402: TIMEOUT comes only from a wait, only with a nonzero RESTART_LIMIT, and only
when that many bursts have been counted. -/
def Obligations.TimeoutOnlyFromBoundedWait : Prop :=
  ∀ s t : State, Inv s → s.busy = true → seqStep s = .next t → t.busy = false → t.err = .timeout →
    s.restartLimit ≠ 0 ∧ s.restartLimit.toNat ≤ s.work.bursts + 1 ∧ busyByte s.work.s ∧
      s.history = t.history

/-- spec/43_wait.md R263, spec/10_state.md R59: a window is a step of its own with the bus free; it counts
one restart, saturating, and changes nothing else that the host can read. No other step changes RESTARTS
while a command runs. -/
def Obligations.WindowIsItsOwnStep : Prop :=
  ∀ s t : State, Inv s → s.busy = true → seqStep s = .next t →
    (t.history = s.history ++ [.window] →
      s.cs = false ∧ t.restarts.toNat = min (s.restarts.toNat + 1) 0xFFFFFFFF ∧
      t = { s with restarts := t.restarts, history := t.history, phase := t.phase, work := t.work }) ∧
    (t.history ≠ s.history ++ [.window] → t.restarts = s.restarts)

/-- spec/41_detect.md R218, R219, R217: once a DETECT has completed, nothing but a reset changes the
profile, the identifications, UNKNOWN_DEV or PROFILE_LOCKED. -/
def Obligations.ProfileFixedOnceLocked : Prop :=
  ∀ s t : State, Inv s → s.profileLocked = true → s.nextTurn ≠ .reset → step s = .next t →
    t.profileLocked = true ∧ t.profile = s.profile ∧ t.usableSectors = s.usableSectors ∧
      t.unknownDev = s.unknownDev ∧ t.jedecId = s.jedecId ∧ t.legacyId = s.legacyId

/-- The frame of every instruction, for any one step of it that gives a next state: what no sequencer step
changes; BUF changes in one byte and only where a received byte is stored; LAST_STATUS only where a sample
is published; the profile registers only where a DETECT resolves; COUNT only at completion. -/
def Obligations.SequencerFrame : Prop :=
  ∀ (i : Instr) (s t : State), exec i s = .next t →
    t.cfg = s.cfg ∧ t.cmd = s.cmd ∧ t.addr = s.addr ∧ t.len = s.len ∧ t.busyAcc = s.busyAcc ∧
    t.restartLimit = s.restartLimit ∧ t.faults = s.faults ∧ t.host = s.host ∧
    t.responses = s.responses ∧ t.sched = s.sched ∧
    (∀ d p rest, s.phase.acts = .recvNext d p :: rest →
      ∀ j, t.buf.read j = if j = s.work.i.toNat then some (0xFF - p) else s.buf.read j) ∧
    ((∀ d p rest, s.phase.acts ≠ .recvNext d p :: rest) → t.buf = s.buf) ∧
    t.lastStatus =
      (if s.phase.acts.head? = some .sampleNext then s.work.s else s.lastStatus) ∧
    (s.phase.todo.any Stmt.resolves = false →
      t.profile = s.profile ∧ t.usableSectors = s.usableSectors ∧ t.unknownDev = s.unknownDev ∧
      t.profileLocked = s.profileLocked ∧ t.jedecId = s.jedecId ∧ t.legacyId = s.legacyId) ∧
    (t.busy = true → t.count = s.count)

/-- spec/40_dispatch.md R161: "Every command reads its address and length only from `op_addr` and
`op_len`". A step of a given instruction reads none of CMD, ADDR, LEN, BUSYACC, the fault set and the agents
around FSEQ: with any other values of those it does the same. (Which instruction a command's first step runs
is decoded from CMD, R163: that is `fetch`, not `exec`.) -/
def Obligations.ExecReadsNoHostSide : Prop :=
  ∀ (i : Instr) (s u : State), exec i (s.onto u) = ontoOutcome (exec i s) u

/-- spec/20_memory.md R89, spec/40_dispatch.md R175: whatever the host does while a command runs, the
command's next step does the same to everything but the host's own side and a cleared DONE. -/
def Obligations.HostCannotDisturbCommand : Prop :=
  ∀ (i : Instr) (s u t : State), s.busy = true → hostStep s = .next u → exec i s = .next t →
    ∃ v, exec i u = .next v ∧ v = { t.onto u with done := v.done } ∧
      (t.busy = false → v.done = t.done)

/-- spec/41_detect.md R219, spec/60_exceptions.md R404: a second DETECT completes with LOCKED, without a
bus event, and changes nothing else. -/
def Obligations.DetectLocked : Prop :=
  ∀ s : State, s.atStart → s.profileLocked = true →
    ∃ work, exec .detect s =
      .next { s with err := .locked, done := true, phase := .idle, work := work }

/-- spec/41_detect.md R203, R204, R205, R207, R210 to R213, R218: a chip of a known family. The whole run:
one identification transaction, then the profile of the first test that holds, its published counts, the
lock. -/
def Obligations.DetectKnownFamily : Prop :=
  ∀ (s : State) (r m d c : Byte) (p : Profile), s.atStart → s.profileLocked = false →
    s.cfg.mfrDistinct = true →
    s.answers [s.cfg.opRdid, s.cfg.fill, s.cfg.fill, s.cfg.fill] = [r, m, d, c] →
    ((m = s.cfg.mfrA ∧
        p = { srEn := 0x50, pmask := 0x3C, unit := .two, wop := 0xAD, fast := false, aai := true,
              sectors := BitVec.ofNat 32 (2 ^ (c.toNat % 8 + 8)), family := .a }) ∨
     (m = s.cfg.mfrB ∧
        p = { srEn := s.cfg.opWren, pmask := 0x1C, unit := .one, wop := 0x02, fast := true,
              aai := false, sectors := BitVec.ofNat 32 (2 ^ (c.toNat % 16 + 4)), family := .b }) ∨
     (m = s.cfg.mfrC ∧ d = s.cfg.cExtDev ∧ c = s.cfg.cExtCap ∧
        p = { srEn := s.cfg.opWren, pmask := 0x3C, unit := .one, wop := 0x02, fast := true,
              aai := false, sectors := s.cfg.c2Sectors, family := .c2 }) ∨
     (m = s.cfg.mfrC ∧ ¬ (d = s.cfg.cExtDev ∧ c = s.cfg.cExtCap) ∧ d = s.cfg.cStdDev ∧
        p = { srEn := s.cfg.opWren, pmask := 0x3C, unit := .one, wop := 0x02, fast := true,
              aai := false,
              sectors := (s.cfg.c1Overrides.lookup c).getD
                (BitVec.ofNat 32 (2 ^ (c.toNat % 16 + 4))),
              family := .c1 })) →
    ∃ work, runInstr .detect 7 s = .next
      { (s.afterTxn [s.cfg.opRdid, s.cfg.fill, s.cfg.fill, s.cfg.fill]).completed .ok with
          work := work
          jedecId := BitVec.ofNat 24 (65536 * m.toNat + 256 * d.toNat + c.toNat)
          profile := p
          usableSectors := BitVec.ofNat 32 (p.sectors.toNat - s.cfg.reservedSectors.toNat)
          unknownDev := false
          profileLocked := true }

/-- spec/41_detect.md R208, R215, R217: manufacturer D without the fallback sends no second transaction,
keeps the profile's other fields, and is reported as UNKNOWN. -/
def Obligations.DetectManufacturerD : Prop :=
  ∀ (s : State) (r d c : Byte), s.atStart → s.profileLocked = false → s.cfg.mfrDistinct = true →
    s.cfg.dFallback = false →
    s.answers [s.cfg.opRdid, s.cfg.fill, s.cfg.fill, s.cfg.fill] = [r, s.cfg.mfrD, d, c] →
    ∃ work, runInstr .detect 7 s = .next
      { (s.afterTxn [s.cfg.opRdid, s.cfg.fill, s.cfg.fill, s.cfg.fill]).completed .ok with
          work := work
          jedecId := BitVec.ofNat 24 (65536 * s.cfg.mfrD.toNat + 256 * d.toNat + c.toNat)
          profile := { s.profile with family := .unknown }
          usableSectors :=
            BitVec.ofNat 32 (s.profile.sectors.toNat - s.cfg.reservedSectors.toNat)
          unknownDev := true
          profileLocked := true }

/-- spec/41_detect.md R206, R214, R215: an unrecognized triplet gets the fallback transaction; a response
equal to LEGACY_ID_MATCH in all 32 bits gives the legacy profile, any other the diagnostic. -/
def Obligations.DetectFallback : Prop :=
  ∀ (s : State) (r m d c r0 r1 r2 r3 : Byte) (rs : List Byte), s.atStart → s.profileLocked = false →
    let idBytes := [s.cfg.opRdid, s.cfg.fill, s.cfg.fill, s.cfg.fill]
    let lidBytes := s.cfg.opRdidLegacy :: s.cfg.legacyIdPrefix ++
      [s.cfg.fill, s.cfg.fill, s.cfg.fill, s.cfg.fill]
    let id := 16777216 * r0.toNat + 65536 * r1.toNat + 256 * r2.toNat + r3.toNat
    s.answers idBytes = [r, m, d, c] →
    m ≠ s.cfg.mfrA → m ≠ s.cfg.mfrB →
    ¬ (m = s.cfg.mfrC ∧ d = s.cfg.cExtDev ∧ c = s.cfg.cExtCap) →
    ¬ (m = s.cfg.mfrC ∧ d = s.cfg.cStdDev) →
    ¬ (m = s.cfg.mfrD ∧ s.cfg.dFallback = false) →
    (s.afterTxn idBytes).answers lidBytes = rs ++ [r0, r1, r2, r3] →
    ∃ (p : Profile) (work : Work),
      p = (if id = s.cfg.legacyIdMatch.toNat then
             { s.profile with sectors := s.cfg.legacySectors, unit := .one, wop := 0xAF,
                              pmask := s.cfg.legacyMask, aai := true, family := .legacy }
           else { s.profile with family := .unknown }) ∧
      runInstr .detect (s.cfg.legacyIdPrefix.length + 14) s = .next
        { ((s.afterTxn idBytes).afterTxn lidBytes).completed .ok with
            work := work
            jedecId := BitVec.ofNat 24 (65536 * m.toNat + 256 * d.toNat + c.toNat)
            legacyId := BitVec.ofNat 32 id
            profile := p
            usableSectors := BitVec.ofNat 32 (p.sectors.toNat - s.cfg.reservedSectors.toNat)
            unknownDev := !decide (id = s.cfg.legacyIdMatch.toNat)
            profileLocked := true }

/-- spec/42_frame_protect.md R245, R246: SET_PROTECT sends SR_EN and then the raw status byte, PMASK or
0x00, and completes; with PMASK = 0 there is no bus event. No other FSEQ register changes. -/
def Obligations.SetProtectRun : Prop :=
  decodeWord 0x00000102 = .ok (.setProtect true) ∧
  decodeWord 0x00000002 = .ok (.setProtect false) ∧
  ∀ (s : State) (arg : Bool), s.atStart →
    (s.profile.pmask = 0 →
      ∃ work, exec (.setProtect arg) s = .next { s.completed .ok with work := work }) ∧
    (s.profile.pmask ≠ 0 →
      ∃ work, runInstr (.setProtect arg) 8 s = .next
        { ((s.afterTxn [s.profile.srEn]).afterTxn
            [0x01, if arg then s.profile.pmask else 0x00]).completed .ok with work := work })

/-- spec/43_wait.md R261, R266: WAIT_READY against a device that is ready after any number of restarts and
at any sample of the next burst. -/
def Obligations.WaitReadyRun : Prop :=
  ∀ (s : State) (w : Wait), s.atStart → s.waits w →
    runInstr .waitReady (104 * w.restarts + w.sample + 4) s = .next ((s.afterWait w).completed .ok)

/-- spec/43_wait.md R262: with RESTART_LIMIT = L nonzero, L full busy bursts end the command with TIMEOUT;
there is a window after each but the last. -/
def Obligations.WaitReadyTimesOut : Prop :=
  ∀ (s : State) (l : Nat), s.atStart → s.restartLimit.toNat = l + 1 → s.busyFor (l + 1) →
    runInstr .waitReady (104 * (l + 1)) s = .next
      (((s.afterRestarts l).afterBurst 100).completed .timeout)

/-- spec/43_wait.md R264, R262: with RESTART_LIMIT = 0 a wait never gives up: for as many bursts as the
device is busy, WAIT_READY runs on with BUSY = 1, through bursts and windows. -/
def Obligations.WaitReadyNeverGivesUp : Prop :=
  ∀ (s : State) (n : Nat), s.atStart → s.restartLimit = 0 → s.busyFor n →
    (∀ m, m ≤ 104 * n → ∃ t, runInstr .waitReady m s = .next t ∧ t.busy = true) ∧
    (∃ t, runInstr .waitReady (104 * n) s = .next t ∧
      t.history = (s.afterRestarts n).history ∧ t.restarts = (s.afterRestarts n).restarts ∧
      t.lastStatus = (s.afterRestarts n).lastStatus)

/-- spec/44_erase.md R280: ERASE_SECTOR sends write-enable, 0x20 with the address unchanged, waits, and
completes. -/
def Obligations.EraseSectorRun : Prop :=
  decodeWord 0x00000004 = .ok .eraseSector ∧
  ∀ (s : State) (w : Wait), s.atStart →
    let ps := [.txn [s.cfg.opWren], .txn ((0x20 : Byte) :: addrBytesNat s.work.opAddr), .wait w]
    piecesHold ps s →
    runInstr .eraseSector (pieceSteps ps + 1) s = .next ((afterPieces ps s).completed .ok)

/-- spec/44_erase.md R282: ERASE_ALL sends write-enable, 0xC7 with no address, waits, and completes. -/
def Obligations.EraseAllRun : Prop :=
  decodeWord 0x00000005 = .ok .eraseAll ∧
  ∀ (s : State) (w : Wait), s.atStart →
    let ps := [.txn [s.cfg.opWren], .txn [0xC7], .wait w]
    piecesHold ps s →
    runInstr .eraseAll (pieceSteps ps + 1) s = .next ((afterPieces ps s).completed .ok)

/-- spec/45_program.md R318: WRITE_BYTE is ProgramDirect of BUF[0], whatever the profile and LEN are. -/
def Obligations.WriteByteRun : Prop :=
  decodeWord 0x00000007 = .ok .writeByte ∧
  ∀ (s : State) (b : Byte) (w : Wait), s.atStart → s.buf.read 0 = some b →
    let ps := directPieces s.cfg s.work.opAddr [b] w
    piecesHold ps s →
    runInstr .writeByte (pieceSteps ps + 1) s = .next ((afterPieces ps s).completed .ok)

/-- spec/45_program.md R305, R310: WRITE with AAI = 0 sends all its bytes, complemented, in one
transaction. -/
def Obligations.WriteDirectRun : Prop :=
  ∀ (s : State) (data : List Byte) (w : Wait), s.atStart → s.profile.aai = false →
    data.length = s.work.opLen.toNat → data ≠ [] → data.length ≤ s.cfg.bufBytes →
    bufHolds s.buf data →
    let ps := directPieces s.cfg s.work.opAddr data w
    piecesHold ps s →
    runInstr .write (pieceSteps ps + 1) s = .next ((afterPieces ps s).completed .ok)

/-- spec/45_program.md R306, R307, R308, R311, R312: WRITE with AAI = 1, for either UNIT, any address and
any payload: the ready/busy disable, the odd-address pre-step, the chunks with their waits, the pad, the
write-disable. -/
def Obligations.WriteAutoIncrementRun : Prop :=
  ∀ (s : State) (data : List Byte) (w0 : Wait) (w : Nat → Wait), s.atStart → s.profile.aai = true →
    data.length = s.work.opLen.toNat → data ≠ [] → data.length ≤ s.cfg.bufBytes →
    bufHolds s.buf data →
    let ps := aaiPieces s.cfg s.profile s.work.opAddr data w0 w
    piecesHold ps s →
    ∃ work, runInstr .write (pieceSteps ps + 1) s =
      .next { (afterPieces ps s).completed .ok with work := work }

/-- spec/60_exceptions.md R401, spec/45_program.md R315: the LEN check and the zero-length no-op of WRITE,
READ and READ_DELIM, in this order (R407), without a bus event. -/
def Obligations.LengthChecks : Prop :=
  ∀ (s : State) (i : Instr), s.atStart → (i = .write ∨ i = .read ∨ i = .readDelim) →
    (s.cfg.bufBytes < s.work.opLen.toNat →
      ∃ work, exec i s = .next { s.completed .len with work := work }) ∧
    (s.work.opLen = 0 → ∃ work, exec i s = .next { s.completed .ok with work := work })

/-- spec/40_dispatch.md R173, spec/45_program.md R313, spec/60_exceptions.md R402: a TIMEOUT in any wait of an
erase or a program command, the odd-address pre-step's and each chunk's among them, ends the whole command
there: nothing after that wait is sent, no write-disable in particular. -/
def Obligations.TimeoutSkipsTheRest : Prop :=
  ∀ (s : State) (i : Instr) (l : Nat) (ps qs : List Piece) (w : Wait), s.atStart →
    CommandPieces s i (ps ++ .wait w :: qs) → piecesHold ps s →
    s.restartLimit.toNat = l + 1 → (afterPieces ps s).busyFor (l + 1) →
    runInstr i (pieceSteps ps + 104 * (l + 1)) s = .next
      ((((afterPieces ps s).afterRestarts l).afterBurst 100).completed .timeout)

/-- spec/46_read.md R340, R341, R342: READ checks LEN, frames by FAST, stores the complement of every byte
from BUF[0] on, leaves every other BUF byte, and sets COUNT to the length. -/
def Obligations.ReadRun : Prop :=
  decodeWord 0x00000008 = .ok .read ∧
  ∀ s : State, s.atStart →
    let n := s.work.opLen.toNat
    let header := readHeader s.cfg s.profile s.work.opAddr
    let data := s.readData s.work.opAddr n
    (s.cfg.bufBytes < n → ∃ work, exec .read s = .next { s.completed .len with work := work }) ∧
    (n = 0 → ∃ work, exec .read s = .next { s.completed .ok with work := work }) ∧
    (n ≤ s.cfg.bufBytes → n ≠ 0 →
      ∃ t, runInstr .read (header.length + n + 3) s = .next t ∧
        t = { (s.afterTxn (header ++ List.replicate n s.cfg.fill)).completed .ok with
                work := t.work, buf := t.buf, count := s.work.opLen } ∧
        (∀ j, j < n → ∃ p, data[j]? = some p ∧ t.buf.read j = some (0xFF - p)) ∧
        (∀ j, n ≤ j → t.buf.read j = s.buf.read j))

/-- spec/46_read.md R344, R345: READ_DELIM checks LEN, stops right after the first byte whose complement is
0x0A, or at the length; that many bytes are stored and counted, and none is clocked after it. -/
def Obligations.ReadDelimRun : Prop :=
  decodeWord 0x00000009 = .ok .readDelim ∧
  ∀ s : State, s.atStart →
    let n := s.work.opLen.toNat
    let header := readHeader s.cfg s.profile s.work.opAddr
    let data := s.readData s.work.opAddr n
    let cnt := delimCount data
    (s.cfg.bufBytes < n → ∃ work, exec .readDelim s = .next { s.completed .len with work := work }) ∧
    (n = 0 → ∃ work, exec .readDelim s = .next { s.completed .ok with work := work }) ∧
    (n ≤ s.cfg.bufBytes → n ≠ 0 →
      ∃ t, runInstr .readDelim (header.length + cnt + 3) s = .next t ∧
        t = { (s.afterTxn (header ++ List.replicate cnt s.cfg.fill)).completed .ok with
                work := t.work, buf := t.buf, count := BitVec.ofNat 16 cnt } ∧
        1 ≤ cnt ∧ cnt ≤ n ∧
        (∀ j, j < cnt → ∃ p, data[j]? = some p ∧ t.buf.read j = some (0xFF - p)) ∧
        (∀ j, cnt ≤ j → t.buf.read j = s.buf.read j))

/-- spec/30_encoding.md R130, R131: the rows EWSR, CE, WREN, WRDI, DBSY, WRSR and SE. From the point before
it, the row's whole transaction: its bytes, and the next statement. -/
def Obligations.FixedRowsRun : Prop :=
  ∀ (s : State) (i : Instr) (t : Txn) (os : List Byte) (todo : List Stmt), FixedRow s.cfg i t os →
    s.phase = .run (.at (.txn t :: todo)) → s.cs = false →
    runInstr i (os.length + 2) s = .next { s.afterTxn os with phase := .run (.at todo) }

/-- spec/30_encoding.md R131, spec/45_program.md R305: the row PP: 0x02, the address, the complemented BUF
bytes from its start index on. -/
def Obligations.PageProgramRowRuns : Prop :=
  ∀ (s : State) (a : Addr) (i0 : Nat) (data : List Byte) (todo : List Stmt), data ≠ [] →
    (∀ j b, data[j]? = some b → s.buf.read (i0 + j) = some b) →
    s.phase = .run (.at (.txn { op := 0x02, fmt := .pp a i0 data.length } :: todo)) → s.cs = false →
    runInstr .spiPp (data.length + 6) s = .next
      { s.afterTxn ((0x02 : Byte) :: addrBytesNat a ++ data.map (fun b => 0xFF - b)) with
          phase := .run (.at todo) }

/-- spec/30_encoding.md R131, spec/45_program.md R306, R308: the two AAI rows, with the address (T_AAI1) or
without (T_AAIn), for either UNIT: one complemented BUF byte, or two, or one and the physical pad 0xFF. -/
def Obligations.AutoIncrementRowsRun : Prop :=
  ∀ (s : State) (i : Instr) (t : Txn) (head : List Byte) (data : List Byte) (todo : List Stmt),
    ((i = .spiAaiA ∧ t.op = 0xAD) ∨ (i = .spiAaiLegacy ∧ t.op = 0xAF)) →
    ((t.fmt = .aai1 ∧ head = t.op :: addrBytesNat s.work.a) ∨ (t.fmt = .aaiN ∧ head = [t.op])) →
    s.work.n ≠ 0 →
    data.length = (if s.profile.unit = .two ∧ 2 ≤ s.work.n.toNat then 2 else 1) →
    (∀ j b, data[j]? = some b → s.buf.read (s.work.i + BitVec.ofNat 16 j).toNat = some b) →
    s.phase = .run (.at (.txn t :: todo)) → s.cs = false →
    let os := head ++ data.map (fun b => 0xFF - b) ++
      (if s.profile.unit = .two ∧ data.length = 1 then [0xFF] else [])
    runInstr i (os.length + 2) s = .next
      { s.afterTxn os with
          phase := .run (.at todo)
          work := { s.work with i := s.work.i + BitVec.ofNat 16 data.length
                                n := s.work.n - BitVec.ofNat 16 data.length } }

/-- spec/30_encoding.md R131, spec/43_wait.md R261: the row RDSR: samples until the first ready one, or 100
of them; LAST_STATUS is the last one. -/
def Obligations.ReadStatusRowRuns : Prop :=
  ∀ (s : State) (j : Nat) (todo : List Stmt),
    s.phase = .run (.at (.txn { op := 0x05, fmt := .rdsr } :: todo)) → s.cs = false →
    s.work.k = 0 → (s.readyAt j ∨ (j = 100 ∧ s.busyBurst)) →
    runInstr .spiRdsr (j + 3) s = .next
      { s.afterBurst j with
          phase := .run (.at todo)
          work := { s.work with k := j, s := (s.samples j).getLastD 0 } }

/-- spec/30_encoding.md R131, spec/46_read.md R340, R344: the rows READ and FAST_READ, the latter with its
dummy byte, each stopping at the delimiter where READ_DELIM asked for it. That i and n are the loop's index
and rest is log 21. -/
def Obligations.ReadRowsRun : Prop :=
  ∀ (s : State) (i : Instr) (a : Addr) (delim : Bool) (t : Txn) (header : List Byte)
    (todo : List Stmt),
    ((i = .spiRead ∧ t = { op := 0x03, fmt := .read a delim } ∧
        header = (0x03 : Byte) :: addrBytesNat a) ∨
     (i = .spiFastRead ∧ t = { op := 0x0B, fmt := .fread a delim } ∧
        header = (0x0B : Byte) :: addrBytesNat a ++ [s.cfg.fill])) →
    s.phase = .run (.at (.txn t :: todo)) → s.cs = false →
    s.work.n ≠ 0 → s.work.i.toNat + s.work.n.toNat < 2 ^ 16 →
    let n := s.work.n.toNat
    let data := (s.answers (header ++ List.replicate n s.cfg.fill)).drop header.length
    let m := if delim then delimCount data else n
    ∃ u, runInstr i (header.length + m + 2) s = .next u ∧
      u = { s.afterTxn (header ++ List.replicate m s.cfg.fill) with
              phase := .run (.at todo)
              buf := u.buf
              work := { s.work with i := s.work.i + BitVec.ofNat 16 m
                                    n := s.work.n - BitVec.ofNat 16 m } } ∧
      (∀ j, j < m → ∃ p, data[j]? = some p ∧
        u.buf.read (s.work.i.toNat + j) = some (0xFF - p)) ∧
      (∀ j, (j < s.work.i.toNat ∨ s.work.i.toNat + m ≤ j) → u.buf.read j = s.buf.read j)

/-- spec/30_encoding.md R131, spec/41_detect.md R202, R206: the rows RDID and RDID_LEGACY: the
identification bytes are received into the working registers, in order and raw. -/
def Obligations.IdentificationRowsRun : Prop :=
  ∀ (s : State) (todo : List Stmt), s.cs = false →
    (∀ r r0 r1 r2, s.phase = .run (.at (.txn { op := s.cfg.opRdid, fmt := .rdid } :: todo)) →
      s.answers [s.cfg.opRdid, s.cfg.fill, s.cfg.fill, s.cfg.fill] = [r, r0, r1, r2] →
      runInstr .spiRdid 6 s = .next
        { s.afterTxn [s.cfg.opRdid, s.cfg.fill, s.cfg.fill, s.cfg.fill] with
            phase := .run (.at todo)
            work := { s.work with id0 := r0, id1 := r1, id2 := r2 } }) ∧
    (∀ rs r0 r1 r2 r3,
      s.phase = .run (.at (.txn { op := s.cfg.opRdidLegacy, fmt := .lid } :: todo)) →
      let os := s.cfg.opRdidLegacy :: s.cfg.legacyIdPrefix ++
        [s.cfg.fill, s.cfg.fill, s.cfg.fill, s.cfg.fill]
      s.answers os = rs ++ [r0, r1, r2, r3] →
      runInstr .spiRdidLegacy (os.length + 2) s = .next
        { s.afterTxn os with
            phase := .run (.at todo)
            work := { s.work with lid0 := r0, lid1 := r1, lid2 := r2, lid3 := r3 } })

/-- Each row takes the next bus event of its own open transaction (spec/40_dispatch.md R164), or stops at
an unwritten BUF byte. -/
def Obligations.RowTakesItsEvent : Prop :=
  ∀ (s : State) (i : Instr) (t : Txn) (acts : List Act) (todo : List Stmt),
    t.instr s.cfg = some i → s.phase = .run (.wire t acts todo) → s.cs = true →
    (∃ u e, exec i s = .next u ∧ u.history = s.history ++ [e] ∧ u.busy = true) ∨
    (∃ k, exec i s = .fault (.uninitBufRead k) ∧ s.buf.read k = none)

/-- spec/20_memory.md R98, R96: RefChip erases the sector that holds the address of ERASE_SECTOR's
transactions, and no other byte. That WEL is clear also where the device was in auto-increment mode is the
model's choice (log 24). RefChip is the spec's own reference device and no real chip. -/
def Obligations.RefChipErasesSector : Prop :=
  ∀ (s : State) (chip : RefChip) (a : Addr), s.flash = .refChip chip →
    s.cfg.opcodesDistinct = true →
    ∃ chip', ((s.afterTxn [s.cfg.opWren]).afterTxn ((0x20 : Byte) :: addrBytesNat a)).flash =
        .refChip chip' ∧
      chip'.wel = false ∧ chip'.busyLeft = chip.busyPolls ∧
      ∀ x : Addr, chip'.m.read x =
        if x.toNat / 4096 = a.toNat / 4096 then 0xFF else chip.m.read x

/-- spec/20_memory.md R98, R99: RefChip programs by AND, byte j at (a + j) mod 2^24, and no other byte; a
pad of 0xFF changes nothing. -/
def Obligations.RefChipPrograms : Prop :=
  ∀ (s : State) (chip : RefChip) (a : Addr) (phys : List Byte), s.flash = .refChip chip →
    s.cfg.opcodesDistinct = true → phys ≠ [] → phys.length ≤ 2 ^ 24 →
    (∃ chip', ((s.afterTxn [s.cfg.opWren]).afterTxn ((0x02 : Byte) :: addrBytesNat a ++ phys)).flash =
        .refChip chip' ∧
      (∀ j d, phys[j]? = some d → chip'.m.read (a + BitVec.ofNat 24 j) =
        chip.m.read (a + BitVec.ofNat 24 j) &&& d) ∧
      (∀ x : Addr, (∀ j, j < phys.length → x ≠ a + BitVec.ofNat 24 j) →
        chip'.m.read x = chip.m.read x)) ∧
    (∀ x y : Addr, (chip.m.program x 0xFF).read y = chip.m.read y)

/-- spec/44_erase.md R283: after an ERASE_SECTOR that RefChip performed, a READ of any bytes of that sector
puts zeros in BUF. -/
def Obligations.ErasedSectorReadsZero : Prop :=
  ∀ (s u : State) (chip : RefChip) (w : Wait), s.atStart → s.flash = .refChip chip →
    s.cfg.opcodesDistinct = true →
    let ps := [.txn [s.cfg.opWren], .txn ((0x20 : Byte) :: addrBytesNat s.work.opAddr), .wait w]
    piecesHold ps s →
    u.atStart → u.cfg = s.cfg → u.flash = (afterPieces ps s).flash →
    u.work.opLen.toNat ≤ u.cfg.bufBytes → u.work.opLen ≠ 0 →
    u.work.opAddr.toNat / 4096 = s.work.opAddr.toNat / 4096 →
    u.work.opAddr.toNat % 4096 + u.work.opLen.toNat ≤ 4096 →
    ∃ v, runInstr .read
        ((readHeader u.cfg u.profile u.work.opAddr).length + u.work.opLen.toNat + 3) u = .next v ∧
      v.err = .ok ∧ v.count = u.work.opLen ∧
      ∀ j, j < u.work.opLen.toNat → v.buf.read j = some 0x00

/-- spec/30_encoding.md R131, spec/43_wait.md R261: the row RDSR from its open transaction, where every wait
of a command stands after the Select: the samples until the first ready one, or 100 of them. -/
def Obligations.ReadStatusRowFinishes : Prop :=
  ∀ (s : State) (t : Txn) (j : Nat) (todo : List Stmt), t = { op := 0x05, fmt := .rdsr } →
    s.phase = .run (.wire t (t.acts s.cfg s.profile s.work) todo) → s.cs = true → s.work.k = 0 →
    let bs := (s.replies (burstBytes s.cfg j)).tail
    ((1 ≤ j ∧ j ≤ 100 ∧ ∃ busy last, bs = busy ++ [last] ∧ readyByte last ∧ ∀ b ∈ busy, busyByte b) ∨
      (j = 100 ∧ ∀ b ∈ bs, busyByte b)) →
    runInstr .spiRdsr (j + 2) s = .next
      { s.endTxn (burstBytes s.cfg j) with
          phase := .run (.at todo)
          lastStatus := bs.getLastD s.lastStatus
          work := { s.work with k := j, s := bs.getLastD 0 } }

/-- spec/30_encoding.md R131, spec/46_read.md R340, R344: the rows READ and FAST_READ from their open
transaction, where READ and READ_DELIM stand after the Select. That i and n are the loop's index and rest is
log 21. -/
def Obligations.ReadRowsFinish : Prop :=
  ∀ (s : State) (i : Instr) (a : Addr) (delim : Bool) (t : Txn) (header : List Byte)
    (todo : List Stmt),
    ((i = .spiRead ∧ t = { op := 0x03, fmt := .read a delim } ∧
        header = (0x03 : Byte) :: addrBytesNat a) ∨
     (i = .spiFastRead ∧ t = { op := 0x0B, fmt := .fread a delim } ∧
        header = (0x0B : Byte) :: addrBytesNat a ++ [s.cfg.fill])) →
    s.phase = .run (.wire t (t.acts s.cfg s.profile s.work) todo) → s.cs = true →
    s.work.n ≠ 0 → s.work.i.toNat + s.work.n.toNat < 2 ^ 16 →
    let n := s.work.n.toNat
    let data := (s.replies (header ++ List.replicate n s.cfg.fill)).drop header.length
    let m := if delim then delimCount data else n
    ∃ u, runInstr i (header.length + m + 1) s = .next u ∧
      u = { s.endTxn (header ++ List.replicate m s.cfg.fill) with
              phase := .run (.at todo)
              buf := u.buf
              work := { s.work with i := s.work.i + BitVec.ofNat 16 m
                                    n := s.work.n - BitVec.ofNat 16 m } } ∧
      (∀ j, j < m → ∃ p, data[j]? = some p ∧
        u.buf.read (s.work.i.toNat + j) = some (0xFF - p)) ∧
      (∀ j, (j < s.work.i.toNat ∨ s.work.i.toNat + m ≤ j) → u.buf.read j = s.buf.read j)
end

