-- ==== Sys2Proof/Laws/Memory.lean ====
section
/-! SUPPORT. The laws of memory: a read after a write, and that every operation keeps the canonical form, of
BUF and of RefChip's contents. -/

namespace Sys2Proof.Machine

open Sys2Proof

theorem Memory.read_write_same (m : Memory) (i : Nat) (v : Byte) : (m.write i v).read i = some v := by
  induction m with
  | nil => simp [Memory.write, Memory.read]
  | cons c rest ih =>
    obtain ⟨a, b⟩ := c
    simp only [Memory.write]
    split
    · simp [Memory.read]
    · split
      · simp [Memory.read]
      · rename_i h1 h2
        simp [Memory.read, ih, Ne.symm h2]

theorem Memory.read_write_other (m : Memory) (i j : Nat) (v : Byte) (h : j ≠ i) :
    (m.write i v).read j = m.read j := by
  induction m with
  | nil => simp [Memory.write, Memory.read, h.symm]
  | cons c rest ih =>
    obtain ⟨a, b⟩ := c
    simp only [Memory.write]
    split
    · simp [Memory.read, h.symm]
    · split
      · rename_i h1 h2
        subst h2
        simp [Memory.read, h.symm]
      · simp [Memory.read, ih]

/-- Every cell after a write was there before, or is the one written. -/
theorem Memory.mem_write {m : Memory} {i : Nat} {v : Byte} {c : Host.Cell} (h : c ∈ m.write i v) :
    c = (i, v) ∨ c ∈ m := by
  induction m with
  | nil => simpa [Memory.write] using h
  | cons d rest ih =>
    obtain ⟨a, b⟩ := d
    simp only [Memory.write] at h
    split at h
    · simpa using h
    · split at h
      · rcases List.mem_cons.1 h with h | h
        · exact .inl h
        · exact .inr (List.mem_cons_of_mem _ h)
      · rcases List.mem_cons.1 h with h | h
        · exact .inr (by simp [h])
        · rcases ih h with h | h
          · exact .inl h
          · exact .inr (List.mem_cons_of_mem _ h)

theorem Memory.write_wf {m : Memory} (h : m.wf) (i : Nat) (v : Byte) : (m.write i v).wf := by
  induction m with
  | nil => simp [Memory.write, Memory.wf]
  | cons d rest ih =>
    obtain ⟨a, b⟩ := d
    have hd := List.pairwise_cons.1 h
    simp only [Memory.write]
    split
    · rename_i hlt
      refine List.pairwise_cons.2 ⟨?_, h⟩
      intro c hc
      rcases List.mem_cons.1 hc with rfl | hc
      · exact hlt
      · exact Nat.lt_trans hlt (hd.1 c hc)
    · split
      · rename_i heq
        subst heq
        exact List.pairwise_cons.2 ⟨hd.1, hd.2⟩
      · rename_i h1 h2
        refine List.pairwise_cons.2 ⟨?_, ih hd.2⟩
        intro c hc
        rcases Memory.mem_write hc with rfl | hc
        · simp only
          omega
        · exact hd.1 c hc

theorem Memory.erase_wf {m : Memory} (h : m.wf) (i : Nat) : (m.erase i).wf :=
  List.Pairwise.sublist List.filter_sublist h

theorem Memory.mem_erase {m : Memory} {i : Nat} {c : Host.Cell} (h : c ∈ m.erase i) :
    c ∈ m ∧ c.1 ≠ i := by
  simpa [Memory.erase] using h

theorem Memory.read_erase_same (m : Memory) (i : Nat) : (m.erase i).read i = none := by
  induction m with
  | nil => rfl
  | cons c rest ih =>
    obtain ⟨a, b⟩ := c
    unfold Memory.erase at *
    by_cases h : a = i
    · simpa [List.filter_cons, h] using ih
    · simpa [List.filter_cons, h, Memory.read] using ih

theorem Memory.read_erase_other (m : Memory) (i j : Nat) (h : j ≠ i) :
    (m.erase i).read j = m.read j := by
  induction m with
  | nil => rfl
  | cons c rest ih =>
    obtain ⟨a, b⟩ := c
    unfold Memory.erase at *
    by_cases ha : a = i
    · have : a ≠ j := fun e => h (by rw [← e, ha])
      simpa [List.filter_cons, ha, Memory.read, this, h.symm] using ih
    · simp only [List.filter_cons, bne_iff_ne, ne_eq, ha, not_false_eq_true, if_true, Memory.read]
      rw [ih]

theorem Memory.writeList_wf {m : Memory} (h : m.wf) (i : Nat) (vs : List Byte) :
    (m.writeList i vs).wf := by
  induction vs generalizing m i with
  | nil => exact h
  | cons v vs ih => exact ih (Memory.write_wf h i v) (i + 1)

theorem Memory.mem_writeList {m : Memory} {i : Nat} {vs : List Byte} {c : Host.Cell}
    (h : c ∈ m.writeList i vs) : (i ≤ c.1 ∧ c.1 < i + vs.length) ∨ c ∈ m := by
  induction vs generalizing m i with
  | nil => exact .inr h
  | cons v vs ih =>
    simp only [Memory.writeList] at h
    rcases ih h with ⟨h1, h2⟩ | h
    · refine .inl ⟨by omega, ?_⟩
      simp only [List.length_cons]
      omega
    · rcases Memory.mem_write h with rfl | h
      · refine .inl ⟨Nat.le_refl _, ?_⟩
        simp only [List.length_cons]
        omega
      · exact .inr h

theorem Memory.read_writeList_other (m : Memory) (i j : Nat) (vs : List Byte)
    (h : j < i ∨ i + vs.length ≤ j) : (m.writeList i vs).read j = m.read j := by
  induction vs generalizing m i with
  | nil => rfl
  | cons v vs ih =>
    simp only [List.length_cons] at h
    simp only [Memory.writeList]
    rw [ih _ _ (by omega), Memory.read_write_other _ _ _ _ (by omega)]

theorem Memory.read_writeList_mem (m : Memory) (i k : Nat) (vs : List Byte) (v : Byte)
    (h : vs[k]? = some v) : (m.writeList i vs).read (i + k) = some v := by
  induction vs generalizing m i k with
  | nil => simp at h
  | cons w vs ih =>
    simp only [Memory.writeList]
    cases k with
    | zero =>
      simp only [List.getElem?_cons_zero, Option.some.injEq] at h
      subst h
      rw [Memory.read_writeList_other _ _ _ _ (by omega)]
      exact Memory.read_write_same _ _ _
    | succ k =>
      simp only [List.getElem?_cons_succ] at h
      have := ih (m.write i w) (i + 1) k h
      rwa [show i + 1 + k = i + (k + 1) by omega] at this

/-- No entry of a chip's contents equals what an unlisted address holds, and the form is canonical. -/
abbrev ChipMem.canonical (m : ChipMem) : Prop := m.cells.wf ∧ ∀ c ∈ m.cells, c.2 ≠ m.fillByte

theorem ChipMem.read_write_same (m : ChipMem) (a : Addr) (v : Byte) : (m.write a v).read a = v := by
  unfold ChipMem.write
  split
  · rename_i h
    simp [ChipMem.read, Memory.read_erase_same, h]
  · simp [ChipMem.read, Memory.read_write_same]

theorem ChipMem.read_write_other (m : ChipMem) (a x : Addr) (v : Byte) (h : x ≠ a) :
    (m.write a v).read x = m.read x := by
  have hn : x.toNat ≠ a.toNat := fun e => h (BitVec.eq_of_toNat_eq e)
  unfold ChipMem.write
  split
  · simp [ChipMem.read, Memory.read_erase_other _ _ _ hn]
  · simp [ChipMem.read, Memory.read_write_other _ _ _ _ hn]

theorem ChipMem.write_canonical {m : ChipMem} (h : m.canonical) (a : Addr) (v : Byte) :
    (m.write a v).canonical := by
  unfold ChipMem.write
  split
  · exact ⟨Memory.erase_wf h.1 _, fun c hc => h.2 c (Memory.mem_erase hc).1⟩
  · rename_i hv
    refine ⟨Memory.write_wf h.1 _ _, fun c hc => ?_⟩
    rcases Memory.mem_write hc with rfl | hc
    · exact hv
    · exact h.2 c hc

theorem ChipMem.programList_canonical {m : ChipMem} (h : m.canonical) (a : Addr) (ds : List Byte) :
    (m.programList a ds).canonical := by
  induction ds generalizing m a with
  | nil => exact h
  | cons d ds ih => exact ih (ChipMem.write_canonical h a _) _

theorem ChipMem.eraseAll_canonical : ChipMem.eraseAll.canonical :=
  ⟨List.Pairwise.nil, fun c hc => absurd hc (by simp [ChipMem.eraseAll])⟩

/-- The block of a sector: consecutive addresses, rising. -/
theorem sectorBlock_wf (base n : Nat) :
    Memory.wf ((List.range n).map (fun j => (base + j, (0xFF : Byte)))) :=
  List.Pairwise.map _ (fun _ _ h => Nat.add_lt_add_left h base) List.pairwise_lt_range

theorem ChipMem.eraseSector_canonical {m : ChipMem} (h : m.canonical) (a : Addr) :
    (m.eraseSector a).canonical := by
  have hb : ∀ c ∈ (if m.fillByte = 0xFF then []
      else (List.range sectorBytes).map (fun j => (sectorBase a + j, (0xFF : Byte)))),
      sectorBase a ≤ c.1 ∧ c.1 < sectorBase a + sectorBytes ∧ c.2 ≠ m.fillByte := by
    intro c hc
    split at hc
    · simp at hc
    · rename_i hf
      obtain ⟨j, hj, rfl⟩ := List.mem_map.1 hc
      have := List.mem_range.1 hj
      exact ⟨by simp, by simpa using this, fun e => hf e.symm⟩
  constructor
  · refine List.pairwise_append.2 ⟨List.pairwise_append.2 ⟨?_, ?_, ?_⟩, ?_, ?_⟩
    · exact List.Pairwise.sublist List.filter_sublist h.1
    · split
      · exact List.Pairwise.nil
      · exact sectorBlock_wf _ _
    · intro x hx y hy
      have h1 := (List.mem_filter.1 hx).2
      have h2 := (hb y hy).1
      simp only [decide_eq_true_eq] at h1
      omega
    · exact List.Pairwise.sublist List.filter_sublist h.1
    · intro x hx y hy
      have h2 := (List.mem_filter.1 hy).2
      simp only [decide_eq_true_eq] at h2
      rcases List.mem_append.1 hx with hx | hx
      · have h1 := (List.mem_filter.1 hx).2
        simp only [decide_eq_true_eq] at h1
        omega
      · have := (hb x hx).2.1
        omega
  · intro c hc
    rcases List.mem_append.1 hc with hc | hc
    · rcases List.mem_append.1 hc with hc | hc
      · exact h.2 c (List.mem_filter.1 hc).1
      · exact (hb c hc).2.2
    · exact h.2 c (List.mem_filter.1 hc).1

end Sys2Proof.Machine
end

