-- ==== Sys2Proof/Laws/State.lean ====
section
/-! SUPPORT. One lemma per field per named update of the state, so that no proof unfolds a record update. -/

namespace Sys2Proof.Machine

open Sys2Proof

@[simp] theorem withPos_cfg (s : State) (p : Pos) : (s.withPos p).cfg = s.cfg := rfl
@[simp] theorem withPos_cmd (s : State) (p : Pos) : (s.withPos p).cmd = s.cmd := rfl
@[simp] theorem withPos_addr (s : State) (p : Pos) : (s.withPos p).addr = s.addr := rfl
@[simp] theorem withPos_len (s : State) (p : Pos) : (s.withPos p).len = s.len := rfl
@[simp] theorem withPos_done (s : State) (p : Pos) : (s.withPos p).done = s.done := rfl
@[simp] theorem withPos_err (s : State) (p : Pos) : (s.withPos p).err = s.err := rfl
@[simp] theorem withPos_unknownDev (s : State) (p : Pos) : (s.withPos p).unknownDev = s.unknownDev := rfl
@[simp] theorem withPos_profileLocked (s : State) (p : Pos) : (s.withPos p).profileLocked = s.profileLocked := rfl
@[simp] theorem withPos_busyAcc (s : State) (p : Pos) : (s.withPos p).busyAcc = s.busyAcc := rfl
@[simp] theorem withPos_buf (s : State) (p : Pos) : (s.withPos p).buf = s.buf := rfl
@[simp] theorem withPos_count (s : State) (p : Pos) : (s.withPos p).count = s.count := rfl
@[simp] theorem withPos_profile (s : State) (p : Pos) : (s.withPos p).profile = s.profile := rfl
@[simp] theorem withPos_usableSectors (s : State) (p : Pos) : (s.withPos p).usableSectors = s.usableSectors := rfl
@[simp] theorem withPos_jedecId (s : State) (p : Pos) : (s.withPos p).jedecId = s.jedecId := rfl
@[simp] theorem withPos_legacyId (s : State) (p : Pos) : (s.withPos p).legacyId = s.legacyId := rfl
@[simp] theorem withPos_restartLimit (s : State) (p : Pos) : (s.withPos p).restartLimit = s.restartLimit := rfl
@[simp] theorem withPos_restarts (s : State) (p : Pos) : (s.withPos p).restarts = s.restarts := rfl
@[simp] theorem withPos_lastStatus (s : State) (p : Pos) : (s.withPos p).lastStatus = s.lastStatus := rfl
@[simp] theorem withPos_phase (s : State) (p : Pos) : (s.withPos p).phase = .run p := rfl
@[simp] theorem withPos_work (s : State) (p : Pos) : (s.withPos p).work = s.work := rfl
@[simp] theorem withPos_cs (s : State) (p : Pos) : (s.withPos p).cs = s.cs := rfl
@[simp] theorem withPos_history (s : State) (p : Pos) : (s.withPos p).history = s.history := rfl
@[simp] theorem withPos_faults (s : State) (p : Pos) : (s.withPos p).faults = s.faults := rfl
@[simp] theorem withPos_flash (s : State) (p : Pos) : (s.withPos p).flash = s.flash := rfl
@[simp] theorem withPos_host (s : State) (p : Pos) : (s.withPos p).host = s.host := rfl
@[simp] theorem withPos_responses (s : State) (p : Pos) : (s.withPos p).responses = s.responses := rfl
@[simp] theorem withPos_sched (s : State) (p : Pos) : (s.withPos p).sched = s.sched := rfl

@[simp] theorem popTurn_cfg (s : State) : (s.popTurn).cfg = s.cfg := rfl
@[simp] theorem popTurn_cmd (s : State) : (s.popTurn).cmd = s.cmd := rfl
@[simp] theorem popTurn_addr (s : State) : (s.popTurn).addr = s.addr := rfl
@[simp] theorem popTurn_len (s : State) : (s.popTurn).len = s.len := rfl
@[simp] theorem popTurn_done (s : State) : (s.popTurn).done = s.done := rfl
@[simp] theorem popTurn_err (s : State) : (s.popTurn).err = s.err := rfl
@[simp] theorem popTurn_unknownDev (s : State) : (s.popTurn).unknownDev = s.unknownDev := rfl
@[simp] theorem popTurn_profileLocked (s : State) : (s.popTurn).profileLocked = s.profileLocked := rfl
@[simp] theorem popTurn_busyAcc (s : State) : (s.popTurn).busyAcc = s.busyAcc := rfl
@[simp] theorem popTurn_buf (s : State) : (s.popTurn).buf = s.buf := rfl
@[simp] theorem popTurn_count (s : State) : (s.popTurn).count = s.count := rfl
@[simp] theorem popTurn_profile (s : State) : (s.popTurn).profile = s.profile := rfl
@[simp] theorem popTurn_usableSectors (s : State) : (s.popTurn).usableSectors = s.usableSectors := rfl
@[simp] theorem popTurn_jedecId (s : State) : (s.popTurn).jedecId = s.jedecId := rfl
@[simp] theorem popTurn_legacyId (s : State) : (s.popTurn).legacyId = s.legacyId := rfl
@[simp] theorem popTurn_restartLimit (s : State) : (s.popTurn).restartLimit = s.restartLimit := rfl
@[simp] theorem popTurn_restarts (s : State) : (s.popTurn).restarts = s.restarts := rfl
@[simp] theorem popTurn_lastStatus (s : State) : (s.popTurn).lastStatus = s.lastStatus := rfl
@[simp] theorem popTurn_phase (s : State) : (s.popTurn).phase = s.phase := rfl
@[simp] theorem popTurn_work (s : State) : (s.popTurn).work = s.work := rfl
@[simp] theorem popTurn_cs (s : State) : (s.popTurn).cs = s.cs := rfl
@[simp] theorem popTurn_history (s : State) : (s.popTurn).history = s.history := rfl
@[simp] theorem popTurn_faults (s : State) : (s.popTurn).faults = s.faults := rfl
@[simp] theorem popTurn_flash (s : State) : (s.popTurn).flash = s.flash := rfl
@[simp] theorem popTurn_host (s : State) : (s.popTurn).host = s.host := rfl
@[simp] theorem popTurn_responses (s : State) : (s.popTurn).responses = s.responses := rfl
@[simp] theorem popTurn_sched (s : State) : (s.popTurn).sched = s.sched.tail := rfl

@[simp] theorem giveTurn_cfg (s : State) : (giveTurn s).cfg = s.cfg := rfl
@[simp] theorem giveTurn_cmd (s : State) : (giveTurn s).cmd = s.cmd := rfl
@[simp] theorem giveTurn_addr (s : State) : (giveTurn s).addr = s.addr := rfl
@[simp] theorem giveTurn_len (s : State) : (giveTurn s).len = s.len := rfl
@[simp] theorem giveTurn_done (s : State) : (giveTurn s).done = s.done := rfl
@[simp] theorem giveTurn_err (s : State) : (giveTurn s).err = s.err := rfl
@[simp] theorem giveTurn_unknownDev (s : State) : (giveTurn s).unknownDev = s.unknownDev := rfl
@[simp] theorem giveTurn_profileLocked (s : State) : (giveTurn s).profileLocked = s.profileLocked := rfl
@[simp] theorem giveTurn_busyAcc (s : State) : (giveTurn s).busyAcc = s.busyAcc := rfl
@[simp] theorem giveTurn_buf (s : State) : (giveTurn s).buf = s.buf := rfl
@[simp] theorem giveTurn_count (s : State) : (giveTurn s).count = s.count := rfl
@[simp] theorem giveTurn_profile (s : State) : (giveTurn s).profile = s.profile := rfl
@[simp] theorem giveTurn_usableSectors (s : State) : (giveTurn s).usableSectors = s.usableSectors := rfl
@[simp] theorem giveTurn_jedecId (s : State) : (giveTurn s).jedecId = s.jedecId := rfl
@[simp] theorem giveTurn_legacyId (s : State) : (giveTurn s).legacyId = s.legacyId := rfl
@[simp] theorem giveTurn_restartLimit (s : State) : (giveTurn s).restartLimit = s.restartLimit := rfl
@[simp] theorem giveTurn_restarts (s : State) : (giveTurn s).restarts = s.restarts := rfl
@[simp] theorem giveTurn_lastStatus (s : State) : (giveTurn s).lastStatus = s.lastStatus := rfl
@[simp] theorem giveTurn_phase (s : State) : (giveTurn s).phase = s.phase := rfl
@[simp] theorem giveTurn_work (s : State) : (giveTurn s).work = s.work := rfl
@[simp] theorem giveTurn_cs (s : State) : (giveTurn s).cs = s.cs := rfl
@[simp] theorem giveTurn_history (s : State) : (giveTurn s).history = s.history := rfl
@[simp] theorem giveTurn_faults (s : State) : (giveTurn s).faults = s.faults := rfl
@[simp] theorem giveTurn_flash (s : State) : (giveTurn s).flash = s.flash := rfl
@[simp] theorem giveTurn_host (s : State) : (giveTurn s).host = s.host := rfl
@[simp] theorem giveTurn_responses (s : State) : (giveTurn s).responses = s.responses := rfl
@[simp] theorem giveTurn_sched (s : State) : (giveTurn s).sched = .sequencer :: s.sched := rfl

@[simp] theorem setBusyAcc_cfg (s : State) : (setBusyAcc s).cfg = s.cfg := rfl
@[simp] theorem setBusyAcc_cmd (s : State) : (setBusyAcc s).cmd = s.cmd := rfl
@[simp] theorem setBusyAcc_addr (s : State) : (setBusyAcc s).addr = s.addr := rfl
@[simp] theorem setBusyAcc_len (s : State) : (setBusyAcc s).len = s.len := rfl
@[simp] theorem setBusyAcc_done (s : State) : (setBusyAcc s).done = s.done := rfl
@[simp] theorem setBusyAcc_err (s : State) : (setBusyAcc s).err = s.err := rfl
@[simp] theorem setBusyAcc_unknownDev (s : State) : (setBusyAcc s).unknownDev = s.unknownDev := rfl
@[simp] theorem setBusyAcc_profileLocked (s : State) : (setBusyAcc s).profileLocked = s.profileLocked := rfl
@[simp] theorem setBusyAcc_busyAcc (s : State) : (setBusyAcc s).busyAcc = true := rfl
@[simp] theorem setBusyAcc_buf (s : State) : (setBusyAcc s).buf = s.buf := rfl
@[simp] theorem setBusyAcc_count (s : State) : (setBusyAcc s).count = s.count := rfl
@[simp] theorem setBusyAcc_profile (s : State) : (setBusyAcc s).profile = s.profile := rfl
@[simp] theorem setBusyAcc_usableSectors (s : State) : (setBusyAcc s).usableSectors = s.usableSectors := rfl
@[simp] theorem setBusyAcc_jedecId (s : State) : (setBusyAcc s).jedecId = s.jedecId := rfl
@[simp] theorem setBusyAcc_legacyId (s : State) : (setBusyAcc s).legacyId = s.legacyId := rfl
@[simp] theorem setBusyAcc_restartLimit (s : State) : (setBusyAcc s).restartLimit = s.restartLimit := rfl
@[simp] theorem setBusyAcc_restarts (s : State) : (setBusyAcc s).restarts = s.restarts := rfl
@[simp] theorem setBusyAcc_lastStatus (s : State) : (setBusyAcc s).lastStatus = s.lastStatus := rfl
@[simp] theorem setBusyAcc_phase (s : State) : (setBusyAcc s).phase = s.phase := rfl
@[simp] theorem setBusyAcc_work (s : State) : (setBusyAcc s).work = s.work := rfl
@[simp] theorem setBusyAcc_cs (s : State) : (setBusyAcc s).cs = s.cs := rfl
@[simp] theorem setBusyAcc_history (s : State) : (setBusyAcc s).history = s.history := rfl
@[simp] theorem setBusyAcc_faults (s : State) : (setBusyAcc s).faults = s.faults := rfl
@[simp] theorem setBusyAcc_flash (s : State) : (setBusyAcc s).flash = s.flash := rfl
@[simp] theorem setBusyAcc_host (s : State) : (setBusyAcc s).host = s.host := rfl
@[simp] theorem setBusyAcc_responses (s : State) : (setBusyAcc s).responses = s.responses := rfl
@[simp] theorem setBusyAcc_sched (s : State) : (setBusyAcc s).sched = s.sched := rfl

@[simp] theorem clearW1c_cfg (v : Word) (s : State) : (clearW1c v s).cfg = s.cfg := rfl
@[simp] theorem clearW1c_cmd (v : Word) (s : State) : (clearW1c v s).cmd = s.cmd := rfl
@[simp] theorem clearW1c_addr (v : Word) (s : State) : (clearW1c v s).addr = s.addr := rfl
@[simp] theorem clearW1c_len (v : Word) (s : State) : (clearW1c v s).len = s.len := rfl
@[simp] theorem clearW1c_done (v : Word) (s : State) : (clearW1c v s).done = (s.done && !v.getLsbD 1) := rfl
@[simp] theorem clearW1c_err (v : Word) (s : State) : (clearW1c v s).err = s.err := rfl
@[simp] theorem clearW1c_unknownDev (v : Word) (s : State) : (clearW1c v s).unknownDev = s.unknownDev := rfl
@[simp] theorem clearW1c_profileLocked (v : Word) (s : State) : (clearW1c v s).profileLocked = s.profileLocked := rfl
@[simp] theorem clearW1c_busyAcc (v : Word) (s : State) : (clearW1c v s).busyAcc = (s.busyAcc && !v.getLsbD 10) := rfl
@[simp] theorem clearW1c_buf (v : Word) (s : State) : (clearW1c v s).buf = s.buf := rfl
@[simp] theorem clearW1c_count (v : Word) (s : State) : (clearW1c v s).count = s.count := rfl
@[simp] theorem clearW1c_profile (v : Word) (s : State) : (clearW1c v s).profile = s.profile := rfl
@[simp] theorem clearW1c_usableSectors (v : Word) (s : State) : (clearW1c v s).usableSectors = s.usableSectors := rfl
@[simp] theorem clearW1c_jedecId (v : Word) (s : State) : (clearW1c v s).jedecId = s.jedecId := rfl
@[simp] theorem clearW1c_legacyId (v : Word) (s : State) : (clearW1c v s).legacyId = s.legacyId := rfl
@[simp] theorem clearW1c_restartLimit (v : Word) (s : State) : (clearW1c v s).restartLimit = s.restartLimit := rfl
@[simp] theorem clearW1c_restarts (v : Word) (s : State) : (clearW1c v s).restarts = s.restarts := rfl
@[simp] theorem clearW1c_lastStatus (v : Word) (s : State) : (clearW1c v s).lastStatus = s.lastStatus := rfl
@[simp] theorem clearW1c_phase (v : Word) (s : State) : (clearW1c v s).phase = s.phase := rfl
@[simp] theorem clearW1c_work (v : Word) (s : State) : (clearW1c v s).work = s.work := rfl
@[simp] theorem clearW1c_cs (v : Word) (s : State) : (clearW1c v s).cs = s.cs := rfl
@[simp] theorem clearW1c_history (v : Word) (s : State) : (clearW1c v s).history = s.history := rfl
@[simp] theorem clearW1c_faults (v : Word) (s : State) : (clearW1c v s).faults = s.faults := rfl
@[simp] theorem clearW1c_flash (v : Word) (s : State) : (clearW1c v s).flash = s.flash := rfl
@[simp] theorem clearW1c_host (v : Word) (s : State) : (clearW1c v s).host = s.host := rfl
@[simp] theorem clearW1c_responses (v : Word) (s : State) : (clearW1c v s).responses = s.responses := rfl
@[simp] theorem clearW1c_sched (v : Word) (s : State) : (clearW1c v s).sched = s.sched := rfl

@[simp] theorem respond_cfg (r : Response) (s : State) : (respond r s).cfg = s.cfg := rfl
@[simp] theorem respond_cmd (r : Response) (s : State) : (respond r s).cmd = s.cmd := rfl
@[simp] theorem respond_addr (r : Response) (s : State) : (respond r s).addr = s.addr := rfl
@[simp] theorem respond_len (r : Response) (s : State) : (respond r s).len = s.len := rfl
@[simp] theorem respond_done (r : Response) (s : State) : (respond r s).done = s.done := rfl
@[simp] theorem respond_err (r : Response) (s : State) : (respond r s).err = s.err := rfl
@[simp] theorem respond_unknownDev (r : Response) (s : State) : (respond r s).unknownDev = s.unknownDev := rfl
@[simp] theorem respond_profileLocked (r : Response) (s : State) : (respond r s).profileLocked = s.profileLocked := rfl
@[simp] theorem respond_busyAcc (r : Response) (s : State) : (respond r s).busyAcc = s.busyAcc := rfl
@[simp] theorem respond_buf (r : Response) (s : State) : (respond r s).buf = s.buf := rfl
@[simp] theorem respond_count (r : Response) (s : State) : (respond r s).count = s.count := rfl
@[simp] theorem respond_profile (r : Response) (s : State) : (respond r s).profile = s.profile := rfl
@[simp] theorem respond_usableSectors (r : Response) (s : State) : (respond r s).usableSectors = s.usableSectors := rfl
@[simp] theorem respond_jedecId (r : Response) (s : State) : (respond r s).jedecId = s.jedecId := rfl
@[simp] theorem respond_legacyId (r : Response) (s : State) : (respond r s).legacyId = s.legacyId := rfl
@[simp] theorem respond_restartLimit (r : Response) (s : State) : (respond r s).restartLimit = s.restartLimit := rfl
@[simp] theorem respond_restarts (r : Response) (s : State) : (respond r s).restarts = s.restarts := rfl
@[simp] theorem respond_lastStatus (r : Response) (s : State) : (respond r s).lastStatus = s.lastStatus := rfl
@[simp] theorem respond_phase (r : Response) (s : State) : (respond r s).phase = s.phase := rfl
@[simp] theorem respond_work (r : Response) (s : State) : (respond r s).work = s.work := rfl
@[simp] theorem respond_cs (r : Response) (s : State) : (respond r s).cs = s.cs := rfl
@[simp] theorem respond_history (r : Response) (s : State) : (respond r s).history = s.history := rfl
@[simp] theorem respond_faults (r : Response) (s : State) : (respond r s).faults = s.faults := rfl
@[simp] theorem respond_flash (r : Response) (s : State) : (respond r s).flash = s.flash := rfl
@[simp] theorem respond_host (r : Response) (s : State) : (respond r s).host = s.host := rfl
@[simp] theorem respond_responses (r : Response) (s : State) : (respond r s).responses = s.responses ++ [r] := rfl
@[simp] theorem respond_sched (r : Response) (s : State) : (respond r s).sched = s.sched := rfl

@[simp] theorem commitProfile_cfg (p : Profile) (u : Bool) (s : State) : (commitProfile p u s).cfg = s.cfg := rfl
@[simp] theorem commitProfile_cmd (p : Profile) (u : Bool) (s : State) : (commitProfile p u s).cmd = s.cmd := rfl
@[simp] theorem commitProfile_addr (p : Profile) (u : Bool) (s : State) : (commitProfile p u s).addr = s.addr := rfl
@[simp] theorem commitProfile_len (p : Profile) (u : Bool) (s : State) : (commitProfile p u s).len = s.len := rfl
@[simp] theorem commitProfile_done (p : Profile) (u : Bool) (s : State) : (commitProfile p u s).done = s.done := rfl
@[simp] theorem commitProfile_err (p : Profile) (u : Bool) (s : State) : (commitProfile p u s).err = s.err := rfl
@[simp] theorem commitProfile_unknownDev (p : Profile) (u : Bool) (s : State) : (commitProfile p u s).unknownDev = u := rfl
@[simp] theorem commitProfile_profileLocked (p : Profile) (u : Bool) (s : State) : (commitProfile p u s).profileLocked = true := rfl
@[simp] theorem commitProfile_busyAcc (p : Profile) (u : Bool) (s : State) : (commitProfile p u s).busyAcc = s.busyAcc := rfl
@[simp] theorem commitProfile_buf (p : Profile) (u : Bool) (s : State) : (commitProfile p u s).buf = s.buf := rfl
@[simp] theorem commitProfile_count (p : Profile) (u : Bool) (s : State) : (commitProfile p u s).count = s.count := rfl
@[simp] theorem commitProfile_profile (p : Profile) (u : Bool) (s : State) : (commitProfile p u s).profile = p := rfl
@[simp] theorem commitProfile_usableSectors (p : Profile) (u : Bool) (s : State) : (commitProfile p u s).usableSectors = satSub p.sectors s.cfg.reservedSectors := rfl
@[simp] theorem commitProfile_jedecId (p : Profile) (u : Bool) (s : State) : (commitProfile p u s).jedecId = s.jedecId := rfl
@[simp] theorem commitProfile_legacyId (p : Profile) (u : Bool) (s : State) : (commitProfile p u s).legacyId = s.legacyId := rfl
@[simp] theorem commitProfile_restartLimit (p : Profile) (u : Bool) (s : State) : (commitProfile p u s).restartLimit = s.restartLimit := rfl
@[simp] theorem commitProfile_restarts (p : Profile) (u : Bool) (s : State) : (commitProfile p u s).restarts = s.restarts := rfl
@[simp] theorem commitProfile_lastStatus (p : Profile) (u : Bool) (s : State) : (commitProfile p u s).lastStatus = s.lastStatus := rfl
@[simp] theorem commitProfile_phase (p : Profile) (u : Bool) (s : State) : (commitProfile p u s).phase = s.phase := rfl
@[simp] theorem commitProfile_work (p : Profile) (u : Bool) (s : State) : (commitProfile p u s).work = s.work := rfl
@[simp] theorem commitProfile_cs (p : Profile) (u : Bool) (s : State) : (commitProfile p u s).cs = s.cs := rfl
@[simp] theorem commitProfile_history (p : Profile) (u : Bool) (s : State) : (commitProfile p u s).history = s.history := rfl
@[simp] theorem commitProfile_faults (p : Profile) (u : Bool) (s : State) : (commitProfile p u s).faults = s.faults := rfl
@[simp] theorem commitProfile_flash (p : Profile) (u : Bool) (s : State) : (commitProfile p u s).flash = s.flash := rfl
@[simp] theorem commitProfile_host (p : Profile) (u : Bool) (s : State) : (commitProfile p u s).host = s.host := rfl
@[simp] theorem commitProfile_responses (p : Profile) (u : Bool) (s : State) : (commitProfile p u s).responses = s.responses := rfl
@[simp] theorem commitProfile_sched (p : Profile) (u : Bool) (s : State) : (commitProfile p u s).sched = s.sched := rfl

@[simp] theorem storeData_cfg (p : Byte) (s : State) : (storeData p s).cfg = s.cfg := rfl
@[simp] theorem storeData_cmd (p : Byte) (s : State) : (storeData p s).cmd = s.cmd := rfl
@[simp] theorem storeData_addr (p : Byte) (s : State) : (storeData p s).addr = s.addr := rfl
@[simp] theorem storeData_len (p : Byte) (s : State) : (storeData p s).len = s.len := rfl
@[simp] theorem storeData_done (p : Byte) (s : State) : (storeData p s).done = s.done := rfl
@[simp] theorem storeData_err (p : Byte) (s : State) : (storeData p s).err = s.err := rfl
@[simp] theorem storeData_unknownDev (p : Byte) (s : State) : (storeData p s).unknownDev = s.unknownDev := rfl
@[simp] theorem storeData_profileLocked (p : Byte) (s : State) : (storeData p s).profileLocked = s.profileLocked := rfl
@[simp] theorem storeData_busyAcc (p : Byte) (s : State) : (storeData p s).busyAcc = s.busyAcc := rfl
@[simp] theorem storeData_buf (p : Byte) (s : State) : (storeData p s).buf = s.buf.write s.work.i.toNat (complement p) := rfl
@[simp] theorem storeData_count (p : Byte) (s : State) : (storeData p s).count = s.count := rfl
@[simp] theorem storeData_profile (p : Byte) (s : State) : (storeData p s).profile = s.profile := rfl
@[simp] theorem storeData_usableSectors (p : Byte) (s : State) : (storeData p s).usableSectors = s.usableSectors := rfl
@[simp] theorem storeData_jedecId (p : Byte) (s : State) : (storeData p s).jedecId = s.jedecId := rfl
@[simp] theorem storeData_legacyId (p : Byte) (s : State) : (storeData p s).legacyId = s.legacyId := rfl
@[simp] theorem storeData_restartLimit (p : Byte) (s : State) : (storeData p s).restartLimit = s.restartLimit := rfl
@[simp] theorem storeData_restarts (p : Byte) (s : State) : (storeData p s).restarts = s.restarts := rfl
@[simp] theorem storeData_lastStatus (p : Byte) (s : State) : (storeData p s).lastStatus = s.lastStatus := rfl
@[simp] theorem storeData_phase (p : Byte) (s : State) : (storeData p s).phase = s.phase := rfl
@[simp] theorem storeData_work (p : Byte) (s : State) : (storeData p s).work = { s.work with i := s.work.i + 1, n := s.work.n - 1 } := rfl
@[simp] theorem storeData_cs (p : Byte) (s : State) : (storeData p s).cs = s.cs := rfl
@[simp] theorem storeData_history (p : Byte) (s : State) : (storeData p s).history = s.history := rfl
@[simp] theorem storeData_faults (p : Byte) (s : State) : (storeData p s).faults = s.faults := rfl
@[simp] theorem storeData_flash (p : Byte) (s : State) : (storeData p s).flash = s.flash := rfl
@[simp] theorem storeData_host (p : Byte) (s : State) : (storeData p s).host = s.host := rfl
@[simp] theorem storeData_responses (p : Byte) (s : State) : (storeData p s).responses = s.responses := rfl
@[simp] theorem storeData_sched (p : Byte) (s : State) : (storeData p s).sched = s.sched := rfl

@[simp] theorem chunkSent_cfg (s : State) : (chunkSent s).cfg = s.cfg := rfl
@[simp] theorem chunkSent_cmd (s : State) : (chunkSent s).cmd = s.cmd := rfl
@[simp] theorem chunkSent_addr (s : State) : (chunkSent s).addr = s.addr := rfl
@[simp] theorem chunkSent_len (s : State) : (chunkSent s).len = s.len := rfl
@[simp] theorem chunkSent_done (s : State) : (chunkSent s).done = s.done := rfl
@[simp] theorem chunkSent_err (s : State) : (chunkSent s).err = s.err := rfl
@[simp] theorem chunkSent_unknownDev (s : State) : (chunkSent s).unknownDev = s.unknownDev := rfl
@[simp] theorem chunkSent_profileLocked (s : State) : (chunkSent s).profileLocked = s.profileLocked := rfl
@[simp] theorem chunkSent_busyAcc (s : State) : (chunkSent s).busyAcc = s.busyAcc := rfl
@[simp] theorem chunkSent_buf (s : State) : (chunkSent s).buf = s.buf := rfl
@[simp] theorem chunkSent_count (s : State) : (chunkSent s).count = s.count := rfl
@[simp] theorem chunkSent_profile (s : State) : (chunkSent s).profile = s.profile := rfl
@[simp] theorem chunkSent_usableSectors (s : State) : (chunkSent s).usableSectors = s.usableSectors := rfl
@[simp] theorem chunkSent_jedecId (s : State) : (chunkSent s).jedecId = s.jedecId := rfl
@[simp] theorem chunkSent_legacyId (s : State) : (chunkSent s).legacyId = s.legacyId := rfl
@[simp] theorem chunkSent_restartLimit (s : State) : (chunkSent s).restartLimit = s.restartLimit := rfl
@[simp] theorem chunkSent_restarts (s : State) : (chunkSent s).restarts = s.restarts := rfl
@[simp] theorem chunkSent_lastStatus (s : State) : (chunkSent s).lastStatus = s.lastStatus := rfl
@[simp] theorem chunkSent_phase (s : State) : (chunkSent s).phase = s.phase := rfl
@[simp] theorem chunkSent_work (s : State) :
    (chunkSent s).work = { s.work with i := s.work.i + 1, n := s.work.n - 1 } := rfl
@[simp] theorem chunkSent_cs (s : State) : (chunkSent s).cs = s.cs := rfl
@[simp] theorem chunkSent_history (s : State) : (chunkSent s).history = s.history := rfl
@[simp] theorem chunkSent_faults (s : State) : (chunkSent s).faults = s.faults := rfl
@[simp] theorem chunkSent_flash (s : State) : (chunkSent s).flash = s.flash := rfl
@[simp] theorem chunkSent_host (s : State) : (chunkSent s).host = s.host := rfl
@[simp] theorem chunkSent_responses (s : State) : (chunkSent s).responses = s.responses := rfl
@[simp] theorem chunkSent_sched (s : State) : (chunkSent s).sched = s.sched := rfl

@[simp] theorem advance_cfg (s : State) : (advance s).cfg = s.cfg := rfl
@[simp] theorem advance_cmd (s : State) : (advance s).cmd = s.cmd := rfl
@[simp] theorem advance_addr (s : State) : (advance s).addr = s.addr := rfl
@[simp] theorem advance_len (s : State) : (advance s).len = s.len := rfl
@[simp] theorem advance_done (s : State) : (advance s).done = s.done := rfl
@[simp] theorem advance_err (s : State) : (advance s).err = s.err := rfl
@[simp] theorem advance_unknownDev (s : State) : (advance s).unknownDev = s.unknownDev := rfl
@[simp] theorem advance_profileLocked (s : State) : (advance s).profileLocked = s.profileLocked := rfl
@[simp] theorem advance_busyAcc (s : State) : (advance s).busyAcc = s.busyAcc := rfl
@[simp] theorem advance_buf (s : State) : (advance s).buf = s.buf := rfl
@[simp] theorem advance_count (s : State) : (advance s).count = s.count := rfl
@[simp] theorem advance_profile (s : State) : (advance s).profile = s.profile := rfl
@[simp] theorem advance_usableSectors (s : State) : (advance s).usableSectors = s.usableSectors := rfl
@[simp] theorem advance_jedecId (s : State) : (advance s).jedecId = s.jedecId := rfl
@[simp] theorem advance_legacyId (s : State) : (advance s).legacyId = s.legacyId := rfl
@[simp] theorem advance_restartLimit (s : State) : (advance s).restartLimit = s.restartLimit := rfl
@[simp] theorem advance_restarts (s : State) : (advance s).restarts = s.restarts := rfl
@[simp] theorem advance_lastStatus (s : State) : (advance s).lastStatus = s.lastStatus := rfl
@[simp] theorem advance_phase (s : State) : (advance s).phase = s.phase := rfl
@[simp] theorem advance_work (s : State) : (advance s).work = { s.work with a := s.work.a + 1, i := 1, n := s.work.n - 1 } := rfl
@[simp] theorem advance_cs (s : State) : (advance s).cs = s.cs := rfl
@[simp] theorem advance_history (s : State) : (advance s).history = s.history := rfl
@[simp] theorem advance_faults (s : State) : (advance s).faults = s.faults := rfl
@[simp] theorem advance_flash (s : State) : (advance s).flash = s.flash := rfl
@[simp] theorem advance_host (s : State) : (advance s).host = s.host := rfl
@[simp] theorem advance_responses (s : State) : (advance s).responses = s.responses := rfl
@[simp] theorem advance_sched (s : State) : (advance s).sched = s.sched := rfl

@[simp] theorem accept_cfg (v : Word) (s : State) : (accept v s).cfg = s.cfg := rfl
@[simp] theorem accept_cmd (v : Word) (s : State) : (accept v s).cmd = v := rfl
@[simp] theorem accept_addr (v : Word) (s : State) : (accept v s).addr = s.addr := rfl
@[simp] theorem accept_len (v : Word) (s : State) : (accept v s).len = s.len := rfl
@[simp] theorem accept_done (v : Word) (s : State) : (accept v s).done = false := rfl
@[simp] theorem accept_err (v : Word) (s : State) : (accept v s).err = .ok := rfl
@[simp] theorem accept_unknownDev (v : Word) (s : State) : (accept v s).unknownDev = s.unknownDev := rfl
@[simp] theorem accept_profileLocked (v : Word) (s : State) : (accept v s).profileLocked = s.profileLocked := rfl
@[simp] theorem accept_busyAcc (v : Word) (s : State) : (accept v s).busyAcc = s.busyAcc := rfl
@[simp] theorem accept_buf (v : Word) (s : State) : (accept v s).buf = s.buf := rfl
@[simp] theorem accept_count (v : Word) (s : State) : (accept v s).count = 0 := rfl
@[simp] theorem accept_profile (v : Word) (s : State) : (accept v s).profile = s.profile := rfl
@[simp] theorem accept_usableSectors (v : Word) (s : State) : (accept v s).usableSectors = s.usableSectors := rfl
@[simp] theorem accept_jedecId (v : Word) (s : State) : (accept v s).jedecId = s.jedecId := rfl
@[simp] theorem accept_legacyId (v : Word) (s : State) : (accept v s).legacyId = s.legacyId := rfl
@[simp] theorem accept_restartLimit (v : Word) (s : State) : (accept v s).restartLimit = s.restartLimit := rfl
@[simp] theorem accept_restarts (v : Word) (s : State) : (accept v s).restarts = 0 := rfl
@[simp] theorem accept_lastStatus (v : Word) (s : State) : (accept v s).lastStatus = s.lastStatus := rfl
@[simp] theorem accept_phase (v : Word) (s : State) : (accept v s).phase = .run .start := rfl
@[simp] theorem accept_work (v : Word) (s : State) : (accept v s).work = { Work.blank with opAddr := s.addr, opLen := s.len } := rfl
@[simp] theorem accept_cs (v : Word) (s : State) : (accept v s).cs = s.cs := rfl
@[simp] theorem accept_history (v : Word) (s : State) : (accept v s).history = s.history := rfl
@[simp] theorem accept_faults (v : Word) (s : State) : (accept v s).faults = s.faults := rfl
@[simp] theorem accept_flash (v : Word) (s : State) : (accept v s).flash = s.flash := rfl
@[simp] theorem accept_host (v : Word) (s : State) : (accept v s).host = s.host := rfl
@[simp] theorem accept_responses (v : Word) (s : State) : (accept v s).responses = s.responses := rfl
@[simp] theorem accept_sched (v : Word) (s : State) : (accept v s).sched = s.sched := rfl

end Sys2Proof.Machine
end

