-- ==== Sys2Proof/Laws/Ops.lean ====
section
/-! SUPPORT. What each shared operation can do, said once: if it answers a next state, then this one; and what
it stops with. Later proofs cite these and do not unfold the operations. -/

namespace Sys2Proof.Machine

open Sys2Proof

theorem select_eq_next {t : Txn} {acts : List Act} {todo : List Stmt} {s u : State} :
    select t acts todo s = .next u ↔
      s.cs = false ∧ u = { s with cs := true, history := s.history ++ [.sel],
                                  flash := s.flash.select, phase := .run (.wire t acts todo) } := by
  unfold select
  cases h : s.cs <;> simp [eq_comm]

theorem deselect_eq_next {todo : List Stmt} {s u : State} :
    deselect todo s = .next u ↔
      s.cs = true ∧ u = { s with cs := false, history := s.history ++ [.desel],
                                 flash := s.flash.deselect s.cfg, phase := .run (.at todo) } := by
  unfold deselect
  cases h : s.cs <;> simp [eq_comm]

theorem xfer_eq_next {o : Byte} {k : Byte → State → State} {s u : State} :
    xfer o k s = .next u ↔
      s.cs = true ∧ u = k (s.flash.answer s.cfg o).1
        { s with history := s.history ++ [.xfer o (s.flash.answer s.cfg o).1],
                 flash := (s.flash.answer s.cfg o).2 } := by
  unfold xfer
  cases h : s.cs <;> simp [eq_comm]

theorem window_eq_next {todo : List Stmt} {s u : State} :
    window todo s = .next u ↔
      u = { s with history := s.history ++ [.window], phase := .run (.at todo) } := by
  simp [window, eq_comm]

theorem complete_eq_next {e : ErrCode} {s u : State} :
    complete e s = .next u ↔
      s.cs = false ∧ u = { s with err := e, done := true, phase := .idle, work := Work.blank } := by
  unfold complete
  cases h : s.cs <;> simp [eq_comm]

theorem beginTxn_eq_next {t : Txn} {todo : List Stmt} {s u : State} :
    beginTxn t todo s = .next u ↔
      s.cs = false ∧ u = { s with cs := true, history := s.history ++ [.sel],
                                  flash := s.flash.select,
                                  phase := .run (.wire t (t.acts s.cfg s.profile s.work) todo) } :=
  select_eq_next

/-- The operations of a free bus never fault. -/
theorem beginTxn_free {t : Txn} {todo : List Stmt} {s : State} (h : s.cs = false) :
    beginTxn t todo s = .next
      { s with cs := true, history := s.history ++ [.sel], flash := s.flash.select,
               phase := .run (.wire t (t.acts s.cfg s.profile s.work) todo) } :=
  beginTxn_eq_next.2 ⟨h, rfl⟩

theorem complete_free {e : ErrCode} {s : State} (h : s.cs = false) :
    complete e s = .next { s with err := e, done := true, phase := .idle, work := Work.blank } :=
  complete_eq_next.2 ⟨h, rfl⟩

theorem abort_free {e : ErrCode} {s : State} (h : s.cs = false) :
    abort e s = .next { s with err := e, done := true, phase := .idle, work := Work.blank } := by
  rw [abort, if_neg (by simp [h])]
  exact complete_free h

theorem deselect_open {todo : List Stmt} {s : State} (h : s.cs = true) :
    deselect todo s = .next
      { s with cs := false, history := s.history ++ [.desel], flash := s.flash.deselect s.cfg,
               phase := .run (.at todo) } :=
  deselect_eq_next.2 ⟨h, rfl⟩

theorem xfer_open {o : Byte} {k : Byte → State → State} {s : State} (h : s.cs = true) :
    xfer o k s = .next (k (s.flash.answer s.cfg o).1
      { s with history := s.history ++ [.xfer o (s.flash.answer s.cfg o).1],
               flash := (s.flash.answer s.cfg o).2 }) :=
  xfer_eq_next.2 ⟨h, rfl⟩

@[simp] theorem answer_queued (cfg : Config) (r : Byte) (rest : List Byte) (n : Nat) (o : Byte) :
    (Flash.draws (r :: rest) n).answer cfg o = (r, .draws rest n) := rfl

@[simp] theorem select_draws (as : List Byte) (n : Nat) :
    (Flash.draws as n).select = .draws as n := rfl

@[simp] theorem deselect_draws (cfg : Config) (as : List Byte) (n : Nat) :
    (Flash.draws as n).deselect cfg = .draws as n := rfl

@[simp] theorem runInstr_zero (i : Instr) (s : State) : runInstr i 0 s = .next s := rfl

theorem runInstr_succ (i : Instr) (n : Nat) (s : State) :
    runInstr i (n + 1) s =
      match exec i s with
      | .next t => runInstr i n t
      | .fault f => .fault f
      | .refused r => .refused r := rfl

/-- One step and then n more. -/
theorem runInstr_step {i : Instr} {n : Nat} {s t : State} (h : exec i s = .next t) :
    runInstr i (n + 1) s = runInstr i n t := by
  rw [runInstr_succ, h]

/-- m steps and then n more. -/
theorem runInstr_add {i : Instr} {m n : Nat} {s t : State} (h : runInstr i m s = .next t) :
    runInstr i (m + n) s = runInstr i n t := by
  induction m generalizing s with
  | zero =>
    simp only [runInstr_zero, Host.Outcome.next.injEq] at h
    simp [h]
  | succ m ih =>
    rw [show m + 1 + n = (m + n) + 1 by omega, runInstr_succ]
    rw [runInstr_succ] at h
    split at h
    · exact ih h
    · simp at h
    · simp at h

/-- The device's data stay in canonical form when it answers. -/
theorem answer_wf {cfg : Config} {f : Flash} (h : f.wf) (o : Byte) : (f.answer cfg o).2.wf := by
  cases f with
  | draws as n =>
    cases as <;> trivial
  | refChip chip =>
    simp only [Flash.answer, RefChip.answer, Flash.wf, RefChip.countBusy]
    split
    · exact h
    · split <;> exact h

theorem flash_select_wf {f : Flash} (h : f.wf) : f.select.wf := by
  cases f with
  | draws as n => trivial
  | refChip chip => exact h

/-- What RefChip does at Desel keeps its contents in canonical form (R98). -/
theorem act_canonical {cfg : Config} {chip : RefChip} (h : chip.m.canonical) :
    (chip.act cfg).m.canonical := by
  unfold RefChip.act
  repeat' split
  all_goals first
    | exact h
    | skip
  · unfold RefChip.wrsrAct
    repeat' split
    all_goals exact h
  · unfold RefChip.seAct
    repeat' split
    all_goals first
      | exact h
      | exact ChipMem.eraseSector_canonical h _
  · unfold RefChip.ceAct
    split
    · exact ChipMem.eraseAll_canonical
    · exact h
  · unfold RefChip.ppAct
    repeat' split
    all_goals first
      | exact h
      | exact ChipMem.programList_canonical h _ _
  · unfold RefChip.aaiAct
    repeat' split
    all_goals first
      | exact h
      | exact ChipMem.programList_canonical h _ _

theorem flash_deselect_wf {cfg : Config} {f : Flash} (h : f.wf) : (f.deselect cfg).wf := by
  cases f with
  | draws as n => trivial
  | refChip chip => exact act_canonical h

/-- A well-bracketed trace goes on as its last part does. -/
theorem busScan_append (cs cs' : Bool) (es fs : List BusEvent) (h : busScan cs es = some cs') :
    busScan cs (es ++ fs) = busScan cs' fs := by
  induction es generalizing cs with
  | nil =>
    simp only [busScan, Option.some.injEq] at h
    simp [h]
  | cons e es ih =>
    cases cs <;> cases e <;> simp only [busScan, List.cons_append] at h ⊢
    all_goals first
      | exact ih _ h
      | exact absurd h (by simp)

end Sys2Proof.Machine
end

