-- ==== Sys2Proof/Laws/Steps.lean ====
section
/-! SUPPORT. What one sequencer step can do, said once: the events of an open transaction, the pseudocode between
transactions, and where an instruction's step is which of the two. Later proofs cite these and unfold neither the
meanings nor the sequencer. -/

namespace Sys2Proof.Machine

open Sys2Proof

/-- BUF after the next event of a transaction: a received byte is stored with the event that follows it. -/
def bufAfter (acts : List Act) (s : State) : Memory :=
  match acts with
  | .recvNext _ p :: _ => s.buf.write s.work.i.toNat (complement p)
  | _ => s.buf

/-- LAST_STATUS after the next event of a transaction. -/
def statusAfter (acts : List Act) (s : State) : Byte :=
  match acts with
  | .sampleNext :: _ => s.work.s
  | _ => s.lastStatus

/-- The next event of an open transaction is its Deselect, or an Xfer inside it. -/
theorem wireStep_next {t : Txn} {acts : List Act} {todo : List Stmt} {s u : State}
    (h : wireStep t acts todo s = .next u) :
    s.cs = true ∧
    ((∃ w, u = { s with cs := false, history := s.history ++ [.desel],
                        flash := s.flash.deselect s.cfg, phase := .run (.at todo), work := w,
                        buf := bufAfter acts s, lastStatus := statusAfter acts s }) ∨
     (∃ o acts' w, u = { s with history := s.history ++ [.xfer o (s.flash.answer s.cfg o).1],
                                flash := (s.flash.answer s.cfg o).2,
                                phase := .run (.wire t acts' todo), work := w,
                                buf := bufAfter acts s, lastStatus := statusAfter acts s })) := by
  cases acts with
  | nil =>
    obtain ⟨hc, rfl⟩ := deselect_eq_next.1 h
    exact ⟨hc, .inl ⟨_, rfl⟩⟩
  | cons a rest =>
    cases a <;> simp only [wireStep, sendChunkByte, sample, receive] at h
    case send o =>
      obtain ⟨hc, rfl⟩ := xfer_eq_next.1 h
      exact ⟨hc, .inr ⟨_, _, _, rfl⟩⟩
    case sendBuf j m =>
      split at h
      · simp at h
      · obtain ⟨hc, rfl⟩ := xfer_eq_next.1 h
        exact ⟨hc, .inr ⟨_, _, _, rfl⟩⟩
    case chunkFirst two =>
      split at h
      · simp at h
      · obtain ⟨hc, rfl⟩ := xfer_eq_next.1 h
        exact ⟨hc, .inr ⟨_, _, _, rfl⟩⟩
    case chunkNext two =>
      split at h
      · obtain ⟨hc, rfl⟩ := deselect_eq_next.1 h
        exact ⟨hc, .inl ⟨_, rfl⟩⟩
      · split at h
        · obtain ⟨hc, rfl⟩ := xfer_eq_next.1 h
          exact ⟨hc, .inr ⟨_, _, _, rfl⟩⟩
        · split at h
          · simp at h
          · obtain ⟨hc, rfl⟩ := xfer_eq_next.1 h
            exact ⟨hc, .inr ⟨_, _, _, rfl⟩⟩
    case recvId slot =>
      obtain ⟨hc, rfl⟩ := xfer_eq_next.1 h
      exact ⟨hc, .inr ⟨_, _, _, rfl⟩⟩
    case sampleFirst =>
      obtain ⟨hc, rfl⟩ := xfer_eq_next.1 h
      exact ⟨hc, .inr ⟨_, _, _, rfl⟩⟩
    case sampleNext =>
      split at h
      · obtain ⟨hc, rfl⟩ := deselect_eq_next.1 h
        exact ⟨hc, .inl ⟨_, rfl⟩⟩
      · obtain ⟨hc, rfl⟩ := xfer_eq_next.1 h
        exact ⟨hc, .inr ⟨_, _, _, rfl⟩⟩
    case recvFirst d =>
      obtain ⟨hc, rfl⟩ := xfer_eq_next.1 h
      exact ⟨hc, .inr ⟨_, _, _, rfl⟩⟩
    case recvNext d p =>
      split at h
      · obtain ⟨hc, rfl⟩ := deselect_eq_next.1 h
        exact ⟨hc, .inl ⟨_, rfl⟩⟩
      · obtain ⟨hc, rfl⟩ := xfer_eq_next.1 h
        exact ⟨hc, .inr ⟨_, _, _, rfl⟩⟩

/-- The statements resolve a DETECT before the next bus event. -/
def resolvesNow : List Stmt → Bool
  | .resolveId :: _ | .resolveLegacy :: _ => true
  | .pollEnd :: rest | .aaiAdvance :: rest => resolvesNow rest
  | _ => false

theorem any_resolves_of_now {todo : List Stmt} (h : resolvesNow todo = true) :
    todo.any Stmt.resolves = true := by
  induction todo with
  | nil => simp [resolvesNow] at h
  | cons x rest ih =>
    cases x <;> simp_all [resolvesNow, Stmt.resolves]

/-- What the pseudocode between transactions can do in one step. -/
inductive Resumed (todo : List Stmt) (s u : State) : Prop where
  /-- a transaction is opened -/
  | opens (t : Txn) (acts : List Act) (todo' : List Stmt) (w : Work) (j : Addr) (hc : s.cs = false)
      (hj : resolvesNow todo = false → j = s.jedecId)
      (h : u = { s with cs := true, history := s.history ++ [.sel], flash := s.flash.select,
                        phase := .run (.wire t acts todo'), work := w, jedecId := j })
  /-- the poller gives a window -/
  | window (todo' : List Stmt) (w : Work)
      (h : u = { s with history := s.history ++ [.window], phase := .run (.at todo'), work := w,
                        restarts := satIncr s.restarts })
  /-- the command completes -/
  | ends (e : ErrCode) (c : Half) (hc : s.cs = false)
      (h : u = { s with err := e, done := true, phase := .idle, work := Work.blank, count := c })
  /-- a DETECT commits its profile and completes -/
  | commits (p : Profile) (unknown : Bool) (j : Addr) (l : Word) (hc : s.cs = false)
      (hr : resolvesNow todo = true)
      (h : u = { s with err := .ok, done := true, phase := .idle, work := Work.blank, profile := p,
                        usableSectors := satSub p.sectors s.cfg.reservedSectors,
                        unknownDev := unknown, profileLocked := true, jedecId := j, legacyId := l })
  /-- an abort while the bus is selected deselects it first (R173); no command gets here -/
  | aborts (w : Work) (e : ErrCode) (hc : s.cs = true)
      (h : u = { s with cs := false, history := s.history ++ [.desel],
                        flash := s.flash.deselect s.cfg, phase := .run (.at [.complete e]), work := w })

theorem Resumed.cons {x : Stmt} {todo : List Stmt} {s u : State} {w : Work}
    (hx : resolvesNow (x :: todo) = resolvesNow todo) (h : Resumed todo { s with work := w } u) :
    Resumed (x :: todo) s u := by
  cases h with
  | opens t acts todo' w' j hc hj h => exact .opens t acts todo' w' j hc (fun hr => hj (hx ▸ hr)) h
  | window todo' w' h => exact .window todo' w' h
  | ends e c hc h => exact .ends e c hc h
  | commits p unknown j l hc hr h => exact .commits p unknown j l hc (hx.trans hr) h
  | aborts w' e hc h => exact .aborts w' e hc h

theorem resume_next {todo : List Stmt} {s u : State} (h : resume todo s = .next u) :
    Resumed todo s u := by
  induction todo generalizing s with
  | nil => simp [resume] at h
  | cons x rest ih =>
    cases x <;> simp only [resume] at h
    case txn t =>
      obtain ⟨hc, rfl⟩ := beginTxn_eq_next.1 h
      exact .opens _ _ _ _ _ hc (fun _ => rfl) rfl
    case waitReady =>
      obtain ⟨hc, rfl⟩ := beginTxn_eq_next.1 h
      exact .opens _ _ _ _ _ hc (fun _ => rfl) rfl
    case pollEnd =>
      split at h
      · exact Resumed.cons (w := s.work) rfl (ih h)
      · simp only [pollRestart] at h
        split at h
        · unfold abort at h
          split at h
          · obtain ⟨hc, rfl⟩ := deselect_eq_next.1 h
            exact .aborts _ _ hc rfl
          · obtain ⟨hc, rfl⟩ := complete_eq_next.1 h
            exact .ends _ _ hc rfl
        · obtain rfl := window_eq_next.1 h
          exact .window _ _ rfl
    case pollBurst =>
      obtain ⟨hc, rfl⟩ := beginTxn_eq_next.1 h
      exact .opens _ _ _ _ _ hc (fun _ => rfl) rfl
    case resolveId =>
      simp only [resolveId] at h
      split at h
      · obtain ⟨hc, rfl⟩ := complete_eq_next.1 h
        exact .commits _ _ _ _ hc rfl rfl
      · obtain ⟨hc, rfl⟩ := complete_eq_next.1 h
        exact .commits _ _ _ _ hc rfl rfl
      · obtain ⟨hc, rfl⟩ := beginTxn_eq_next.1 h
        exact .opens _ _ _ _ _ hc (fun hr => by simp [resolvesNow] at hr) rfl
    case resolveLegacy =>
      simp only [resolveLegacy] at h
      split at h
      · obtain ⟨hc, rfl⟩ := complete_eq_next.1 h
        exact .commits _ _ _ _ hc rfl rfl
      · obtain ⟨hc, rfl⟩ := complete_eq_next.1 h
        exact .commits _ _ _ _ hc rfl rfl
    case aaiAdvance =>
      split at h
      · exact Resumed.cons rfl (ih h)
      · obtain ⟨hc, rfl⟩ := beginTxn_eq_next.1 h
        exact .opens _ _ _ _ _ hc (fun _ => rfl) rfl
    case aaiLoop =>
      split at h
      · obtain ⟨hc, rfl⟩ := beginTxn_eq_next.1 h
        exact .opens _ _ _ _ _ hc (fun _ => rfl) rfl
      · obtain ⟨hc, rfl⟩ := beginTxn_eq_next.1 h
        exact .opens _ _ _ _ _ hc (fun _ => rfl) rfl
    case finishRead =>
      obtain ⟨hc, rfl⟩ := complete_eq_next.1 h
      exact .ends _ _ hc rfl
    case finishDelim =>
      obtain ⟨hc, rfl⟩ := complete_eq_next.1 h
      exact .ends _ _ hc rfl
    case complete e =>
      obtain ⟨hc, rfl⟩ := complete_eq_next.1 h
      exact .ends _ _ hc rfl

/-- A command's pseudocode, none for a flash opcode. -/
def programOf : Instr → Option Program
  | .detect => some detectProgram
  | .setProtect arg => some (protectProgram arg)
  | .waitReady => some waitProgram
  | .eraseSector => some eraseSectorProgram
  | .eraseAll => some eraseAllProgram
  | .write => some writeProgram
  | .writeByte => some writeByteProgram
  | .read => some (readProgram false .finishRead)
  | .readDelim => some (readProgram true .finishDelim)
  | .spiWrsr | .spiPp | .spiRead | .spiRdsr | .spiFastRead | .spiSe | .spiEwsr | .spiAaiA
  | .spiAaiLegacy | .spiCe | .spiWren | .spiWrdi | .spiDbsy | .spiRdid | .spiRdidLegacy => none

/-- The transactions a flash opcode's meaning takes as its own, none for a command. -/
def rowOf (c : Config) : Instr → Option (Txn → Bool)
  | .spiWrsr => some isWrsr
  | .spiPp => some isPp
  | .spiRead => some isRead
  | .spiRdsr => some isRdsr
  | .spiFastRead => some isFastRead
  | .spiSe => some isSe
  | .spiEwsr => some (isT1 0x50)
  | .spiAaiA => some (isAai 0xAD)
  | .spiAaiLegacy => some (isAai 0xAF)
  | .spiCe => some (isT1 0xC7)
  | .spiWren => some (isT1 c.opWren)
  | .spiWrdi => some (isT1 c.opWrdi)
  | .spiDbsy => some (isT1 c.opDbsy)
  | .spiRdid => some (isRdid c)
  | .spiRdidLegacy => some (isLid c)
  | .detect | .setProtect _ | .waitReady | .eraseSector | .eraseAll
  | .write | .writeByte | .read | .readDelim => none

/-- An instruction is a command with its program, or a flash opcode with its transactions. -/
theorem exec_shape (i : Instr) (s : State) :
    (∃ p, programOf i = some p ∧ exec i s = runCommand p s) ∨
    (∃ m, rowOf s.cfg i = some m ∧ exec i s = runTransaction m s) := by
  cases i
  all_goals first
    | exact .inl ⟨_, rfl, rfl⟩
    | exact .inr ⟨_, rfl, rfl⟩

/-- Where an instruction's step is which: inside a transaction its next event, else the pseudocode from the
statements that stand there, which at the start are the command's own. -/
theorem exec_next {i : Instr} {s u : State} (h : exec i s = .next u) :
    (∃ t acts todo, s.phase = .run (.wire t acts todo) ∧ wireStep t acts todo s = .next u) ∨
    (∃ todo, s.phase = .run (.at todo) ∧ resume todo s = .next u) ∨
    (∃ p, s.phase = .run .start ∧ programOf i = some p ∧
      resume (p s).2 { s with work := (p s).1 } = .next u) := by
  rcases exec_shape i s with ⟨p, hp, e⟩ | ⟨m, hm, e⟩
  · rw [e] at h
    unfold runCommand at h
    split at h
    · simp at h
    · rename_i hph
      exact .inr (.inr ⟨p, hph, hp, h⟩)
    · rename_i todo hph
      exact .inr (.inl ⟨todo, hph, h⟩)
    · rename_i t acts todo hph
      exact .inl ⟨t, acts, todo, hph, h⟩
  · rw [e] at h
    unfold runTransaction at h
    split at h
    · rename_i t rest hph
      split at h
      · exact .inr (.inl ⟨_, hph, h⟩)
      · simp at h
    · rename_i t acts todo hph
      split at h
      · exact .inl ⟨t, acts, todo, hph, h⟩
      · simp at h
    · simp at h

/-- No command resolves anything before its first bus event. -/
theorem program_resolves_later {i : Instr} {p : Program} (hp : programOf i = some p) (s : State) :
    resolvesNow (p s).2 = false := by
  cases i <;> cases hp
  · simp only [detectProgram]
    split <;> rfl
  · simp only [protectProgram]
    split <;> rfl
  · rfl
  · rfl
  · rfl
  · simp only [writeProgram]
    repeat' split
    all_goals first
      | rfl
      | skip
    unfold programAai
    cases s.cfg.rybyDisable <;> cases oddStart s.profile s.work.opAddr <;> rfl
  · rfl
  · simp only [readProgram]
    repeat' split
    all_goals rfl
  · simp only [readProgram]
    repeat' split
    all_goals rfl

/-- A flash opcode owns the transactions that are looked up as its row. -/
theorem row_owns {c : Config} {t : Txn} {i : Instr} (h : t.instr c = some i) :
    ∃ m, rowOf c i = some m ∧ m t = true ∧ programOf i = none := by
  obtain ⟨op, fmt⟩ := t
  cases fmt <;> simp only [Txn.instr, t1Instr] at h
  all_goals repeat' split at h
  all_goals try simp at h
  all_goals
    subst h
    refine ⟨_, rfl, ?_, rfl⟩
    simp_all [isT1, isAai, isWrsr, isPp, isRead, isFastRead, isSe, isRdsr, isRdid, isLid]

/-- The step of a transaction's row inside it. -/
theorem exec_row_wire {s : State} {t : Txn} {acts : List Act} {todo : List Stmt} {i : Instr}
    (h : t.instr s.cfg = some i) (hp : s.phase = .run (.wire t acts todo)) :
    exec i s = wireStep t acts todo s := by
  obtain ⟨m, hm, ht, hn⟩ := row_owns h
  rcases exec_shape i s with ⟨p, hp', e⟩ | ⟨m', hm', e⟩
  · simp [hn] at hp'
  · rw [hm] at hm'
    cases hm'
    rw [e]
    simp [runTransaction, hp, ht]

/-- The step of a transaction's row before it. -/
theorem exec_row_at {s : State} {t : Txn} {todo : List Stmt} {i : Instr}
    (h : t.instr s.cfg = some i) (hp : s.phase = .run (.at (.txn t :: todo))) :
    exec i s = beginTxn t todo s := by
  obtain ⟨m, hm, ht, hn⟩ := row_owns h
  rcases exec_shape i s with ⟨p, hp', e⟩ | ⟨m', hm', e⟩
  · simp [hn] at hp'
  · rw [hm] at hm'
    cases hm'
    rw [e]
    simp [runTransaction, hp, ht]

/-- A command word decodes to a command. -/
theorem decodeWord_command {w : Word} {i : Instr} (h : decodeWord w = .ok i) :
    ∃ p, programOf i = some p := by
  unfold decodeWord decodeCode at h
  repeat' split at h
  all_goals try simp at h
  all_goals first
    | (subst h; exact ⟨_, rfl⟩)
    | skip
  all_goals
    rename_i hj _
    repeat' split at hj
  all_goals try simp at hj
  all_goals
    subst hj
    subst h
    exact ⟨_, rfl⟩

theorem exec_command {i : Instr} {p : Program} (hp : programOf i = some p) (s : State) :
    exec i s = runCommand p s := by
  cases i <;> cases hp <;> rfl

/-- A sequencer step of a running command, whatever row names it. -/
theorem seqStep_next {s u : State} (hb : s.busy = true) (h : seqStep s = .next u) :
    (∃ t acts todo, s.phase = .run (.wire t acts todo) ∧ wireStep t acts todo s = .next u) ∨
    (∃ todo, s.phase = .run (.at todo) ∧ resume todo s = .next u) ∨
    (∃ p : Program, s.phase = .run .start ∧
      (p = illegalProgram ∨ ∃ i, decodeWord s.cmd = .ok i ∧ programOf i = some p) ∧
      resume (p s).2 { s with work := (p s).1 } = .next u) := by
  unfold seqStep at h
  split at h
  · rename_i i hf
    rcases exec_next h with h | h | ⟨p, hp, hq, h⟩
    · exact .inl h
    · exact .inr (.inl h)
    · refine .inr (.inr ⟨p, hp, .inr ⟨i, ?_, hq⟩, h⟩)
      simp only [fetch, hp, commandInstr] at hf
      split at hf
      · cases hf
        assumption
      · simp at hf
  · unfold stepUnnamed at h
    split at h
    · rename_i hp
      simp [State.busy, hp] at hb
    · unfold runCommand at h
      split at h
      · simp at h
      · rename_i hp
        exact .inr (.inr ⟨_, hp, .inl rfl, h⟩)
      · rename_i todo hp
        exact .inr (.inl ⟨todo, hp, h⟩)
      · rename_i t acts todo hp
        exact .inl ⟨t, acts, todo, hp, h⟩

/-- With no command running a sequencer step is none. -/
theorem seqStep_idle {s : State} (h : s.phase = .idle) : seqStep s = .next s := by
  simp [seqStep, fetch, stepUnnamed, h]

/-- An open transaction goes on, or reads a BUF byte that nothing has written. -/
theorem wireStep_total {t : Txn} {acts : List Act} {todo : List Stmt} {s : State} (hc : s.cs = true) :
    (∃ u, wireStep t acts todo s = .next u) ∨
    ∃ k, wireStep t acts todo s = .fault (.uninitBufRead k) ∧ s.buf.read k = none := by
  cases acts with
  | nil => exact .inl ⟨_, deselect_open hc⟩
  | cons a rest =>
    cases a <;> simp only [wireStep, sendChunkByte, sample, receive]
    case sendBuf j m =>
      cases h : s.buf.read j with
      | none => exact .inr ⟨j, rfl, h⟩
      | some b => exact .inl ⟨_, xfer_open hc⟩
    case chunkFirst two =>
      cases h : s.buf.read s.work.i.toNat with
      | none => exact .inr ⟨_, rfl, h⟩
      | some b => exact .inl ⟨_, xfer_open hc⟩
    case chunkNext two =>
      split
      · exact .inl ⟨_, deselect_open hc⟩
      · split
        · exact .inl ⟨_, xfer_open hc⟩
        · cases h : (chunkSent s).buf.read (chunkSent s).work.i.toNat with
          | none => exact .inr ⟨_, rfl, h⟩
          | some b => exact .inl ⟨_, xfer_open hc⟩
    case sampleNext =>
      split
      · exact .inl ⟨_, deselect_open hc⟩
      · exact .inl ⟨_, xfer_open hc⟩
    case recvNext d p =>
      split
      · exact .inl ⟨_, deselect_open hc⟩
      · exact .inl ⟨_, xfer_open hc⟩
    all_goals exact .inl ⟨_, xfer_open hc⟩

theorem exec_row {i : Instr} {s : State} {m : Txn → Bool} (hm : rowOf s.cfg i = some m) :
    exec i s = runTransaction m s := by
  cases i <;> cases hm <;> rfl

end Sys2Proof.Machine
end

