-- ==== Sys2Proof/Laws/Host.lean ====
section
/-! SUPPORT. What the host's moves do to a running command: nothing but the host's own side and a cleared DONE. -/

namespace Sys2Proof.Machine

open Sys2Proof

theorem whenIdle_busy {f : State → State} {s : State} (h : s.busy = true) : whenIdle f s = setBusyAcc s := by simp [whenIdle, h]

theorem hostWrite_busy {off : Offset} {v : Word} {s : State} (h : s.busy = true) :
    hostWrite off v s = { s.onto (hostWrite off v s) with done := (hostWrite off v s).done } := by
  unfold hostWrite
  split
  · rw [whenIdle_busy h]; rfl
  · unfold writeReg
    repeat' split
    all_goals first
      | (rw [whenIdle_busy h]; rfl)
      | rfl

theorem hostRead_busy {off : Offset} {v : Word} {s u : State} (h : s.busy = true)
    (hr : hostRead off s = .ok (v, u)) : u = { s.onto u with done := u.done } := by
  unfold hostRead at hr
  split at hr
  · rw [if_pos h] at hr; cases hr; rfl
  · cases hr; rfl

theorem busError_eq {off : Offset} {s : State} :
    busError off s = { s.onto (busError off s) with done := (busError off s).done } := by
  unfold busError recordFault respond
  split <;> rfl

theorem onto_trans {s t u : State} (h : t = { s.onto t with done := t.done })
    (h' : u = { t.onto u with done := u.done }) : u = { s.onto u with done := u.done } := by
  rw [h']
  have : { t.onto u with done := u.done } = ({ s.onto u with done := u.done } : State) := by
    rw [h]; rfl
  rw [this]; rfl

/-- A host access while a command runs. -/
theorem hostAccess_busy {a : HostAccess} {s u : State} (h : s.busy = true)
    (hr : hostAccess a s = .next u) : u = { s.onto u with done := u.done } := by
  unfold hostAccess at hr
  split at hr
  · split at hr
    · split at hr
      · rename_i v s1 h'
        cases hr
        exact onto_trans (t := s1) (hostRead_busy h h') rfl
      · cases hr
    · cases hr; exact busError_eq
  · split at hr
    · cases hr
      exact onto_trans (t := hostWrite _ _ s) (hostWrite_busy h) rfl
    · cases hr; exact busError_eq

/-- The host's move while a command runs. -/
theorem hostStep_busy {s u : State} (h : s.busy = true) (hr : hostStep s = .next u) :
    u = { s.onto u with done := u.done } := by
  unfold hostStep at hr
  split at hr
  · cases hr; rfl
  · rename_i a rest _
    exact onto_trans (t := { s with host := rest }) rfl (hostAccess_busy h hr)
  · unfold pollRound at hr
    split at hr
    · split at hr
      · rename_i rest _ _ v s1 h'
        split at hr
        · cases hr; exact onto_trans (t := s1) (hostRead_busy h h') rfl
        · cases hr; exact onto_trans (t := s1) (hostRead_busy h h') rfl
      · cases hr
    · cases hr; exact busError_eq
  · rename_i rest _
    split at hr
    · exact onto_trans (t := { s with host := rest }) rfl (hostAccess_busy h hr)
    · cases hr; rfl
  · rename_i rest _
    split at hr
    · exact onto_trans (t := { s with host := rest }) rfl (hostAccess_busy h hr)
    · cases hr; rfl
end Sys2Proof.Machine
end

