-- ==== Sys2Proof/Laws/PerInstr.lean ====
section
/-! SUPPORT. The facts stated for every instruction: its row of spec/opcode_table.json. -/

namespace Sys2Proof.Laws.TableRow

open Sys2Proof

/-- The row's width in bits, its mask and its match, copied from the table. -/
def row : Instr → Nat × Nat × Nat
  | .detect => (32, 0xFFFFFFFF, 0x00000001)
  | .setProtect _ => (32, 0xFFFFFEFF, 0x00000002)
  | .waitReady => (32, 0xFFFFFFFF, 0x00000003)
  | .eraseSector => (32, 0xFFFFFFFF, 0x00000004)
  | .eraseAll => (32, 0xFFFFFFFF, 0x00000005)
  | .write => (32, 0xFFFFFFFF, 0x00000006)
  | .writeByte => (32, 0xFFFFFFFF, 0x00000007)
  | .read => (32, 0xFFFFFFFF, 0x00000008)
  | .readDelim => (32, 0xFFFFFFFF, 0x00000009)
  | .spiWrsr => (8, 0xFF, 0x01)
  | .spiPp => (8, 0xFF, 0x02)
  | .spiRead => (8, 0xFF, 0x03)
  | .spiRdsr => (8, 0xFF, 0x05)
  | .spiFastRead => (8, 0xFF, 0x0B)
  | .spiSe => (8, 0xFF, 0x20)
  | .spiEwsr => (8, 0xFF, 0x50)
  | .spiAaiA => (8, 0xFF, 0xAD)
  | .spiAaiLegacy => (8, 0xFF, 0xAF)
  | .spiCe => (8, 0xFF, 0xC7)
  | .spiWren => (8, 0xFF, 0x06)
  | .spiWrdi => (8, 0xFF, 0x04)
  | .spiDbsy => (8, 0xFF, 0x80)
  | .spiRdid => (8, 0xFF, 0x9F)
  | .spiRdidLegacy => (8, 0xFF, 0x90)

/-- The encoder's bits as the table numbers them: how many, and their value. -/
def bits : Encoded → Nat × Nat
  | .word w => (32, w.toNat)
  | .opcode b => (8, b.toNat)

/-- With the reference opcodes the encoder's bits have the row's width, match its mask, and decode to the
instruction again. -/
def Statement (i : Instr) : Prop :=
  let e := bits (encode Config.reference i)
  e.1 = (row i).1 ∧ e.2 &&& (row i).2.1 = (row i).2.2 ∧ decodeTableWord e.1 e.2 = some i

theorem detect : Statement .detect := ⟨rfl, rfl, rfl⟩
theorem setProtect (arg : Bool) : Statement (.setProtect arg) := by
  cases arg <;> exact ⟨rfl, rfl, rfl⟩
theorem waitReady : Statement .waitReady := ⟨rfl, rfl, rfl⟩
theorem eraseSector : Statement .eraseSector := ⟨rfl, rfl, rfl⟩
theorem eraseAll : Statement .eraseAll := ⟨rfl, rfl, rfl⟩
theorem write : Statement .write := ⟨rfl, rfl, rfl⟩
theorem writeByte : Statement .writeByte := ⟨rfl, rfl, rfl⟩
theorem read : Statement .read := ⟨rfl, rfl, rfl⟩
theorem readDelim : Statement .readDelim := ⟨rfl, rfl, rfl⟩
theorem spiWrsr : Statement .spiWrsr := ⟨rfl, rfl, rfl⟩
theorem spiPp : Statement .spiPp := ⟨rfl, rfl, rfl⟩
theorem spiRead : Statement .spiRead := ⟨rfl, rfl, rfl⟩
theorem spiRdsr : Statement .spiRdsr := ⟨rfl, rfl, rfl⟩
theorem spiFastRead : Statement .spiFastRead := ⟨rfl, rfl, rfl⟩
theorem spiSe : Statement .spiSe := ⟨rfl, rfl, rfl⟩
theorem spiEwsr : Statement .spiEwsr := ⟨rfl, rfl, rfl⟩
theorem spiAaiA : Statement .spiAaiA := ⟨rfl, rfl, rfl⟩
theorem spiAaiLegacy : Statement .spiAaiLegacy := ⟨rfl, rfl, rfl⟩
theorem spiCe : Statement .spiCe := ⟨rfl, rfl, rfl⟩
theorem spiWren : Statement .spiWren := ⟨rfl, rfl, rfl⟩
theorem spiWrdi : Statement .spiWrdi := ⟨rfl, rfl, rfl⟩
theorem spiDbsy : Statement .spiDbsy := ⟨rfl, rfl, rfl⟩
theorem spiRdid : Statement .spiRdid := ⟨rfl, rfl, rfl⟩
theorem spiRdidLegacy : Statement .spiRdidLegacy := ⟨rfl, rfl, rfl⟩

end Sys2Proof.Laws.TableRow
end

