-- ==== Sys2Proof/Laws/Runs.lean ====
section
/-! SUPPORT. How an instruction runs over several steps: what one step is at each point of a command, and what
the sends of a transaction, a whole transaction and a poll burst do. -/

namespace Sys2Proof.Machine

open Sys2Proof

/-- Inside transaction t the instruction's step is the transaction's next event. -/
def StepsWire (i : Instr) (t : Txn) : Prop :=
  ∀ s acts todo, s.phase = .run (.wire t acts todo) → exec i s = wireStep t acts todo s

/-- Between transactions the instruction's step is the pseudocode's next one. -/
def StepsTodo (i : Instr) : Prop :=
  ∀ s todo, s.phase = .run (.at todo) → exec i s = resume todo s

theorem runCommand_wire {p : Program} {s : State} {t : Txn} {acts : List Act} {todo : List Stmt}
    (h : s.phase = .run (.wire t acts todo)) : runCommand p s = wireStep t acts todo s := by
  simp [runCommand, h]

theorem runCommand_at {p : Program} {s : State} {todo : List Stmt} (h : s.phase = .run (.at todo)) :
    runCommand p s = resume todo s := by
  simp [runCommand, h]

theorem runCommand_start {p : Program} {s : State} (h : s.phase = .run .start) :
    runCommand p s = resume (p s).2 { s with work := (p s).1 } := by
  simp [runCommand, h]

theorem runTransaction_wire {mine : Txn → Bool} {s : State} {t : Txn} {acts : List Act}
    {todo : List Stmt} (hm : mine t = true) (h : s.phase = .run (.wire t acts todo)) :
    runTransaction mine s = wireStep t acts todo s := by
  simp [runTransaction, h, hm]

theorem runTransaction_at {mine : Txn → Bool} {s : State} {t : Txn} {rest : List Stmt}
    (hm : mine t = true) (h : s.phase = .run (.at (.txn t :: rest))) :
    runTransaction mine s = beginTxn t rest s := by
  simp [runTransaction, h, hm]

theorem stepsWire_command {i : Instr} (hi : i.isCommand = true) (t : Txn) : StepsWire i t := by
  intro s acts todo h
  cases i
  all_goals first
    | exact runCommand_wire h
    | exact absurd hi (by simp [Instr.isCommand])

theorem stepsTodo_command {i : Instr} (hi : i.isCommand = true) : StepsTodo i := by
  intro s todo h
  cases i
  all_goals first
    | exact runCommand_at h
    | exact absurd hi (by simp [Instr.isCommand])

@[simp] theorem converse_nil (cfg : Config) (f : Flash) : f.converse cfg [] = ([], f) := rfl

@[simp] theorem converse_cons (cfg : Config) (f : Flash) (o : Byte) (os : List Byte) :
    f.converse cfg (o :: os) =
      ((f.answer cfg o).1 :: ((f.answer cfg o).2.converse cfg os).1,
       ((f.answer cfg o).2.converse cfg os).2) := rfl

theorem converse_append (cfg : Config) (f : Flash) (xs ys : List Byte) :
    f.converse cfg (xs ++ ys) =
      ((f.converse cfg xs).1 ++ ((f.converse cfg xs).2.converse cfg ys).1,
       ((f.converse cfg xs).2.converse cfg ys).2) := by
  induction xs generalizing f with
  | nil => rfl
  | cons x xs ih => simp [ih]

@[simp] theorem converse_length (cfg : Config) (f : Flash) (os : List Byte) :
    (f.converse cfg os).1.length = os.length := by
  induction os generalizing f with
  | nil => rfl
  | cons o os ih => simp [ih]

/-- The state with another chip-select, position and working registers, these events appended, and the
device as it is now. Every bus event has this form. -/
def State.ran (s : State) (cs : Bool) (es : List BusEvent) (f : Flash) (p : Pos) (w : Work) : State :=
  { s with cs := cs, history := s.history ++ es, flash := f, phase := .run p, work := w }

section
variable (s : State) (cs : Bool) (es : List BusEvent) (f : Flash) (p : Pos) (w : Work)
@[simp] theorem State.ran_cfg : (s.ran cs es f p w).cfg = s.cfg := rfl
@[simp] theorem State.ran_cs : (s.ran cs es f p w).cs = cs := rfl
@[simp] theorem State.ran_history : (s.ran cs es f p w).history = s.history ++ es := rfl
@[simp] theorem State.ran_flash : (s.ran cs es f p w).flash = f := rfl
@[simp] theorem State.ran_phase : (s.ran cs es f p w).phase = .run p := rfl
@[simp] theorem State.ran_work : (s.ran cs es f p w).work = w := rfl
@[simp] theorem State.ran_profile : (s.ran cs es f p w).profile = s.profile := rfl
@[simp] theorem State.ran_buf : (s.ran cs es f p w).buf = s.buf := rfl
@[simp] theorem State.ran_restartLimit : (s.ran cs es f p w).restartLimit = s.restartLimit := rfl
@[simp] theorem State.ran_restarts : (s.ran cs es f p w).restarts = s.restarts := rfl
@[simp] theorem State.ran_lastStatus : (s.ran cs es f p w).lastStatus = s.lastStatus := rfl
@[simp] theorem State.ran_profileLocked : (s.ran cs es f p w).profileLocked = s.profileLocked := rfl
@[simp] theorem State.ran_ran (cs' : Bool) (es' : List BusEvent) (f' : Flash) (p' : Pos) (w' : Work) :
    (s.ran cs es f p w).ran cs' es' f' p' w' = s.ran cs' (es ++ es') f' p' w' := by
  simp [State.ran]
end

/-- A state that is already there. -/
theorem State.ran_self {s : State} {p : Pos} (h : s.phase = .run p) :
    s.ran s.cs [] s.flash p s.work = s := by
  cases s
  simp_all [State.ran]

theorem beginTxn_ran {t : Txn} {todo : List Stmt} {s : State} (h : s.cs = false) :
    beginTxn t todo s = .next
      (s.ran true [.sel] s.flash.select (.wire t (t.acts s.cfg s.profile s.work) todo) s.work) :=
  beginTxn_free h

theorem deselect_ran {todo : List Stmt} {s : State} (h : s.cs = true) :
    deselect todo s = .next
      (s.ran false [.desel] (s.flash.deselect s.cfg) (.at todo) s.work) :=
  deselect_open h

/-- One Xfer that moves the position and puts the received byte in a working register. -/
theorem xfer_ran {o : Byte} {k : Byte → State → State} {q : Byte → Pos} {g : Byte → Work → Work}
    {s : State} (hk : ∀ r s1, k r s1 = { s1 with work := g r s1.work, phase := .run (q r) })
    (h : s.cs = true) :
    xfer o k s = .next
      (s.ran true [.xfer o (s.flash.answer s.cfg o).1] (s.flash.answer s.cfg o).2
        (q (s.flash.answer s.cfg o).1) (g (s.flash.answer s.cfg o).1 s.work)) := by
  rw [xfer_open h, hk]
  simp only [State.ran, h]

/-- A send. -/
theorem wireStep_send {t : Txn} {o : Byte} {rest : List Act} {todo : List Stmt} {s : State}
    (h : s.cs = true) :
    wireStep t (.send o :: rest) todo s = .next
      (s.ran true [.xfer o (s.flash.answer s.cfg o).1] (s.flash.answer s.cfg o).2
        (.wire t rest todo) s.work) :=
  xfer_ran (q := fun _ => .wire t rest todo) (g := fun _ w => w) (fun _ _ => rfl) h

/-- The sends of a transaction, one step each. -/
theorem run_sends {i : Instr} {t : Txn} (hw : StepsWire i t) (os : List Byte) (acts : List Act)
    (todo : List Stmt) (s : State) (hp : s.phase = .run (.wire t (os.map .send ++ acts) todo))
    (hc : s.cs = true) :
    runInstr i os.length s = .next
      (s.ran true (List.zipWith .xfer os (s.flash.converse s.cfg os).1)
        (s.flash.converse s.cfg os).2 (.wire t acts todo) s.work) := by
  induction os generalizing s with
  | nil =>
    have := State.ran_self hp
    rw [hc] at this
    simpa using congrArg (Host.Outcome.next (φ := Fault) (ρ := Refusal)) this.symm
  | cons o os ih =>
    have h1 := (hw s _ _ hp).trans (wireStep_send hc)
    rw [List.length_cons, runInstr_step h1, ih _ rfl rfl]
    simp

/-- The Deselect of a transaction with nothing left. -/
theorem run_desel {i : Instr} {t : Txn} (hw : StepsWire i t) {todo : List Stmt} {s : State}
    (hp : s.phase = .run (.wire t [] todo)) (hc : s.cs = true) :
    runInstr i 1 s = .next (s.ran false [.desel] (s.flash.deselect s.cfg) (.at todo) s.work) := by
  have h : exec i s = .next _ := (hw s [] todo hp).trans (deselect_ran (todo := todo) hc)
  rw [runInstr_step h, runInstr_zero]

/-- A whole transaction and where it leads. -/
theorem afterTxn_ran {s : State} (hc : s.cs = false) (os : List Byte) (p : Pos) (w : Work) :
    s.ran false (.sel :: List.zipWith .xfer os (s.answers os) ++ [.desel])
      ((s.flash.select.converse s.cfg os).2.deselect s.cfg) p w =
    { s.afterTxn os with phase := .run p, work := w } := by
  cases s
  simp_all [State.ran, State.afterTxn, State.answers]

/-- A transaction of sends alone, Select to Deselect. -/
theorem run_txn {i : Instr} {t : Txn} (hw : StepsWire i t) {s : State} {os : List Byte}
    {todo : List Stmt} (ha : t.acts s.cfg s.profile s.work = os.map .send)
    (hb : exec i s = beginTxn t todo s) (hc : s.cs = false) :
    runInstr i (os.length + 2) s = .next ((s.afterTxn os).withPos (.at todo)) := by
  rw [beginTxn_ran hc, ha] at hb
  have h2 := run_sends hw os [] todo
    (s.ran true [.sel] s.flash.select (.wire t (os.map .send) todo) s.work) (by simp) rfl
  rw [show os.length + 2 = (os.length + 1) + 1 by omega, runInstr_step hb, runInstr_add h2,
    run_desel hw rfl rfl]
  simp only [State.ran_ran, State.ran_cfg, State.ran_flash, State.ran_work]
  exact congrArg _ (afterTxn_ran hc os (.at todo) s.work)

/-- The working registers after a data byte of a chunk (R306). -/
def Work.sent (w : Work) : Work := { w with i := w.i + 1, n := w.n - 1 }

/-- The first Xfer of a chunk (R306). -/
theorem wireStep_chunkFirst {t : Txn} {two : Bool} {rest : List Act} {todo : List Stmt} {s : State}
    {b : Byte} (hb : s.buf.read s.work.i.toNat = some b) (hc : s.cs = true) :
    wireStep t (.chunkFirst two :: rest) todo s = .next
      (s.ran true [.xfer (complement b) (s.flash.answer s.cfg (complement b)).1]
        (s.flash.answer s.cfg (complement b)).2 (.wire t (.chunkNext two :: rest) todo) s.work) := by
  simp only [wireStep, sendChunkByte, hb]
  exact xfer_ran (q := fun _ => .wire t (.chunkNext two :: rest) todo) (g := fun _ w => w)
    (fun _ _ => rfl) hc

/-- The Deselect after a chunk's last data byte (R306, R164). -/
theorem wireStep_chunkLast {t : Txn} {rest : List Act} {todo : List Stmt} {s : State}
    (hc : s.cs = true) :
    wireStep t (.chunkNext false :: rest) todo s = .next
      (s.ran false [.desel] (s.flash.deselect s.cfg) (.at todo) s.work.sent) :=
  deselect_ran (s := chunkSent s) hc

/-- The pad of a chunk with one data byte (R308). -/
theorem wireStep_chunkPad {t : Txn} {rest : List Act} {todo : List Stmt} {s : State}
    (hn : s.work.n = 1) (hc : s.cs = true) :
    wireStep t (.chunkNext true :: rest) todo s = .next
      (s.ran true [.xfer 0xFF (s.flash.answer s.cfg 0xFF).1] (s.flash.answer s.cfg 0xFF).2
        (.wire t rest todo) s.work.sent) := by
  simp only [wireStep, chunkSent_work, hn]
  exact xfer_ran (s := chunkSent s) (q := fun _ => .wire t rest todo) (g := fun _ w => w)
    (fun _ _ => rfl) hc

/-- The second data byte of a chunk (R306). -/
theorem wireStep_chunkSecond {t : Txn} {rest : List Act} {todo : List Stmt} {s : State} {b : Byte}
    (hn : s.work.n ≠ 1) (hb : s.buf.read (s.work.i + 1).toNat = some b) (hc : s.cs = true) :
    wireStep t (.chunkNext true :: rest) todo s = .next
      (s.ran true [.xfer (complement b) (s.flash.answer s.cfg (complement b)).1]
        (s.flash.answer s.cfg (complement b)).2 (.wire t (.chunkNext false :: rest) todo)
        s.work.sent) := by
  have hn' : ¬ s.work.n - 1 = 0 := fun h => hn (by bv_omega)
  simp only [wireStep, sendChunkByte, chunkSent_work, chunkSent_buf, hb, if_neg hn']
  exact xfer_ran (s := chunkSent s) (q := fun _ => .wire t (.chunkNext false :: rest) todo)
    (g := fun _ w => w) (fun _ _ => rfl) hc

/-- A chunk of one data byte and no second Xfer, to its Deselect. -/
theorem run_chunkOne {i : Instr} {t : Txn} (hw : StepsWire i t) {todo : List Stmt} {s : State} {b : Byte}
    (hp : s.phase = .run (.wire t [.chunkFirst false] todo)) (hc : s.cs = true)
    (hb : s.buf.read s.work.i.toNat = some b) :
    runInstr i 2 s = .next
      (s.ran false
        (List.zipWith .xfer [complement b] (s.flash.converse s.cfg [complement b]).1 ++ [.desel])
        ((s.flash.converse s.cfg [complement b]).2.deselect s.cfg) (.at todo) s.work.sent) := by
  rw [runInstr_step ((hw _ _ _ hp).trans (wireStep_chunkFirst hb hc)),
    runInstr_step ((hw _ _ _ rfl).trans (wireStep_chunkLast rfl))]
  simp

/-- A chunk of one data byte and the pad, to its Deselect. -/
theorem run_chunkPad {i : Instr} {t : Txn} (hw : StepsWire i t) {todo : List Stmt} {s : State} {b : Byte}
    (hp : s.phase = .run (.wire t [.chunkFirst true] todo)) (hc : s.cs = true) (hn : s.work.n = 1)
    (hb : s.buf.read s.work.i.toNat = some b) :
    runInstr i 3 s = .next
      (s.ran false
        (List.zipWith .xfer [complement b, 0xFF] (s.flash.converse s.cfg [complement b, 0xFF]).1 ++
          [.desel])
        ((s.flash.converse s.cfg [complement b, 0xFF]).2.deselect s.cfg) (.at todo) s.work.sent) := by
  rw [runInstr_step ((hw _ _ _ hp).trans (wireStep_chunkFirst hb hc)),
    runInstr_step ((hw _ _ _ rfl).trans (wireStep_chunkPad (s := s.ran true _ _ _ _) hn rfl)),
    run_desel hw rfl rfl]
  simp

/-- A chunk of two data bytes, to its Deselect. -/
theorem run_chunkTwo {i : Instr} {t : Txn} (hw : StepsWire i t) {todo : List Stmt} {s : State}
    {b c : Byte} (hp : s.phase = .run (.wire t [.chunkFirst true] todo)) (hc : s.cs = true)
    (hn : s.work.n ≠ 1) (hb : s.buf.read s.work.i.toNat = some b)
    (hb' : s.buf.read (s.work.i + 1).toNat = some c) :
    runInstr i 3 s = .next
      (s.ran false
        (List.zipWith .xfer [complement b, complement c]
          (s.flash.converse s.cfg [complement b, complement c]).1 ++ [.desel])
        ((s.flash.converse s.cfg [complement b, complement c]).2.deselect s.cfg) (.at todo)
        s.work.sent.sent) := by
  rw [runInstr_step ((hw _ _ _ hp).trans (wireStep_chunkFirst hb hc)),
    runInstr_step ((hw _ _ _ rfl).trans (wireStep_chunkSecond (s := s.ran true _ _ _ _) hn hb' rfl)),
    runInstr_step ((hw _ _ _ rfl).trans (wireStep_chunkLast rfl))]
  simp

theorem ready_iff (b : Byte) : ready b = true ↔ readyByte b := by
  unfold ready readyByte
  rw [BitVec.getLsbD, Nat.testBit_zero]
  simp

theorem not_ready_iff (b : Byte) : ready b = false ↔ busyByte b := by
  unfold ready busyByte
  rw [BitVec.getLsbD, Nat.testBit_zero]
  simp

/-- The state with this last status byte. -/
def State.published (s : State) (b : Byte) : State := { s with lastStatus := b }

/-- The rest of a burst, from a sample that stands in s: it is published, and m more are taken. The burst
ends at the last one, which is the first ready one or the 100th. -/
theorem run_samples {i : Instr} {t : Txn} (hw : StepsWire i t) {todo : List Stmt} (m : Nat) (s : State)
    (hp : s.phase = .run (.wire t [.sampleNext] todo)) (hc : s.cs = true)
    (hb : m ≠ 0 → busyByte s.work.s) (hl : m = 0 → readyByte s.work.s ∨ 100 ≤ s.work.k)
    (hk : s.work.k + m ≤ 100)
    (hm : ∀ b ∈ (s.flash.converse s.cfg (List.replicate m s.cfg.fill)).1.dropLast, busyByte b)
    (hlast : m ≠ 0 → readyByte ((s.flash.converse s.cfg (List.replicate m s.cfg.fill)).1.getLastD 0) ∨ s.work.k + m = 100) :
    runInstr i (m + 1) s = .next
      ((s.published ((s.flash.converse s.cfg (List.replicate m s.cfg.fill)).1.getLastD s.work.s)).ran false
        (List.zipWith .xfer (List.replicate m s.cfg.fill)
            (s.flash.converse s.cfg (List.replicate m s.cfg.fill)).1 ++ [.desel])
        ((s.flash.converse s.cfg (List.replicate m s.cfg.fill)).2.deselect s.cfg) (.at todo)
        { s.work with s := (s.flash.converse s.cfg (List.replicate m s.cfg.fill)).1.getLastD s.work.s,
                      k := s.work.k + m }) := by
  induction m generalizing s with
  | zero =>
    have h : exec i s = .next ((s.published s.work.s).ran false [.desel] (s.flash.deselect s.cfg) (.at todo) s.work) := by
      rw [hw s _ _ hp]
      simp only [wireStep]
      rw [if_pos]
      · exact deselect_ran (s := s.published s.work.s) hc
      · rcases hl rfl with h | h
        · exact .inl ((ready_iff _).2 h)
        · exact .inr h
    rw [runInstr_step h]
    simp
  | succ m ih =>
    have hnr : ready s.work.s = false := (not_ready_iff _).2 (hb (by omega))
    have h : exec i s = .next ((s.published s.work.s).ran true [.xfer s.cfg.fill (s.flash.answer s.cfg s.cfg.fill).1] (s.flash.answer s.cfg s.cfg.fill).2
        (.wire t [.sampleNext] todo) { s.work with s := (s.flash.answer s.cfg s.cfg.fill).1, k := s.work.k + 1 }) := by
      rw [hw s _ _ hp]
      simp only [wireStep]
      rw [if_neg]
      · exact xfer_ran (s := s.published s.work.s) (q := fun r => .wire t [.sampleNext] todo) (g := fun r w => {w with s := r, k := w.k + 1}) (fun _ _ => rfl) hc
      · simp [hnr, pollSamples]; omega
    rw [List.replicate_succ, converse_cons] at hm hlast
    rw [runInstr_step h, ih]
    · simp [List.replicate_succ, State.published, State.ran, Nat.add_assoc, Nat.add_comm 1 m,
        List.getLast?_cons]
    · rfl
    · rfl
    · intro h0
      apply hm
      cases m with
      | zero => omega
      | succ m => simp [List.replicate_succ]
    · rintro rfl
      rcases hlast (by omega) with h | h
      · left; simpa using h
      · right; simp; omega
    · simp; omega
    · intro b hb'
      apply hm
      cases m with
      | zero => simp at hb'
      | succ m => simp [List.replicate_succ] at hb' ⊢; right; exact hb'
    · intro h0
      have := hlast (by omega)
      cases m with
      | zero => omega
      | succ m => 
        simp [List.replicate_succ, State.published] at this ⊢
        rcases this with h | h
        · left; exact h
        · right; omega

theorem samples_eq (j : Nat) (s : State) :
    s.samples (j + 1) =
      (((s.flash.select.answer s.cfg 0x05).2.answer s.cfg s.cfg.fill).1 ::
        (((s.flash.select.answer s.cfg 0x05).2.answer s.cfg s.cfg.fill).2.converse s.cfg
          (List.replicate j s.cfg.fill)).1) := rfl

/-- A send, as a step of a run. -/
theorem run_send {i : Instr} {t : Txn} (hw : StepsWire i t) {o : Byte} {rest : List Act}
    {todo : List Stmt} {s : State} (hp : s.phase = .run (.wire t (.send o :: rest) todo))
    (hc : s.cs = true) (n : Nat) :
    runInstr i (n + 1) s = runInstr i n
      (s.ran true [.xfer o (s.flash.answer s.cfg o).1] (s.flash.answer s.cfg o).2
        (.wire t rest todo) s.work) :=
  runInstr_step ((hw _ _ _ hp).trans (wireStep_send hc))

/-- The first sample of a burst, as a step of a run. -/
theorem run_sampleFirst {i : Instr} {t : Txn} (hw : StepsWire i t) {rest : List Act}
    {todo : List Stmt} {s : State} (hp : s.phase = .run (.wire t (.sampleFirst :: rest) todo))
    (hc : s.cs = true) (n : Nat) :
    runInstr i (n + 1) s = runInstr i n
      (s.ran true [.xfer s.cfg.fill (s.flash.answer s.cfg s.cfg.fill).1]
        (s.flash.answer s.cfg s.cfg.fill).2 (.wire t (.sampleNext :: rest) todo)
        { s.work with s := (s.flash.answer s.cfg s.cfg.fill).1, k := s.work.k + 1 }) :=
  runInstr_step ((hw _ _ _ hp).trans
    (xfer_ran (q := fun _ => .wire t (.sampleNext :: rest) todo)
      (g := fun r w => { w with s := r, k := w.k + 1 }) (fun _ _ => rfl) hc))

/-- The state at another point with other working registers. -/
def State.put (s : State) (p : Pos) (w : Work) : State := { s with phase := .run p, work := w }

/-- One burst of j samples, Select to Deselect. -/
theorem run_burst {i : Instr} (hw : StepsWire i rdsrTxn) {todo : List Stmt} {s : State} {w : Work}
    (hb : exec i s = beginTxn rdsrTxn todo { s with work := w }) (hk : w.k = 0) (hc : s.cs = false)
    {j : Nat} (h1 : 1 ≤ j) (h2 : j ≤ 100) (hbusy : ∀ b ∈ (s.samples j).dropLast, busyByte b)
    (hlast : readyByte ((s.samples j).getLastD 0) ∨ j = 100) :
    runInstr i (j + 3) s = .next
      ((s.afterBurst j).put (.at todo) { w with s := (s.samples j).getLastD 0, k := j }) := by
  obtain ⟨m, rfl⟩ : ∃ m, j = m + 1 := ⟨j - 1, by omega⟩
  rw [samples_eq] at *
  rw [beginTxn_ran (s := { s with work := w }) hc] at hb
  rw [show m + 1 + 3 = (m + 1) + 1 + 1 + 1 by omega, runInstr_step hb,
    run_send (o := 0x05) (rest := [.sampleFirst]) (todo := todo) hw rfl rfl,
    run_sampleFirst (rest := []) (todo := todo) hw rfl rfl, run_samples hw m _ rfl rfl]
  · simp [hk, State.put, State.afterBurst, State.afterTxn, State.ran, samples_eq, State.answers, State.published, burstBytes, List.replicate_succ, List.getLast?_cons, Nat.add_comm, hc]
  · intro h0
    apply hbusy
    cases m with
    | zero => omega
    | succ m => simp [List.replicate_succ]
  · rintro rfl
    rcases hlast with h | h
    · left; simpa using h
    · omega
  · simp [hk]; omega
  · intro b hb'
    apply hbusy
    cases m with
    | zero => simp at hb'
    | succ m => simp [List.replicate_succ] at hb' ⊢; right; exact hb'
  · intro h0
    cases m with
    | zero => omega
    | succ m =>
      rcases hlast with h | h
      · left; simpa [List.replicate_succ] using h
      · right; simp [hk]; omega


section
variable (s : State) (p q : Pos) (v w : Work) (j n : Nat) (os : List Byte) (x : Wait)
@[simp] theorem State.put_put : (s.put p w).put q v = s.put q v := rfl
@[simp] theorem State.put_cfg : (s.put p w).cfg = s.cfg := rfl
@[simp] theorem State.put_cs : (s.put p w).cs = s.cs := rfl
@[simp] theorem State.put_profile : (s.put p w).profile = s.profile := rfl
@[simp] theorem State.put_buf : (s.put p w).buf = s.buf := rfl
@[simp] theorem State.put_restartLimit : (s.put p w).restartLimit = s.restartLimit := rfl
@[simp] theorem State.put_phase : (s.put p w).phase = .run p := rfl
@[simp] theorem State.put_work : (s.put p w).work = w := rfl
@[simp] theorem State.put_answers : (s.put p w).answers os = s.answers os := rfl
@[simp] theorem State.put_samples : (s.put p w).samples j = s.samples j := rfl
@[simp] theorem State.put_afterTxn : (s.put p w).afterTxn os = (s.afterTxn os).put p w := rfl
@[simp] theorem State.put_afterBurst : (s.put p w).afterBurst j = (s.afterBurst j).put p w := rfl
@[simp] theorem State.put_completed (e : ErrCode) : (s.put p w).completed e = s.completed e := rfl
@[simp] theorem State.afterTxn_cs : (s.afterTxn os).cs = s.cs := rfl
@[simp] theorem State.afterTxn_cfg : (s.afterTxn os).cfg = s.cfg := rfl
@[simp] theorem State.afterTxn_profile : (s.afterTxn os).profile = s.profile := rfl
@[simp] theorem State.afterTxn_buf : (s.afterTxn os).buf = s.buf := rfl
@[simp] theorem State.afterTxn_restartLimit : (s.afterTxn os).restartLimit = s.restartLimit := rfl
@[simp] theorem State.afterTxn_work : (s.afterTxn os).work = s.work := rfl
@[simp] theorem State.afterBurst_cs : (s.afterBurst j).cs = s.cs := rfl
@[simp] theorem State.afterBurst_cfg : (s.afterBurst j).cfg = s.cfg := rfl
@[simp] theorem State.afterBurst_restartLimit : (s.afterBurst j).restartLimit = s.restartLimit := rfl
@[simp] theorem State.afterBurst_profile : (s.afterBurst j).profile = s.profile := rfl
@[simp] theorem State.afterBurst_buf : (s.afterBurst j).buf = s.buf := rfl
@[simp] theorem State.afterBurst_work : (s.afterBurst j).work = s.work := rfl
@[simp] theorem State.put_restarted : (s.put p w).restarted = s.restarted.put p w := by
  unfold State.restarted
  rw [State.put_afterBurst]
  rfl
@[simp] theorem State.restarted_cs : s.restarted.cs = s.cs := by
  unfold State.restarted
  exact State.afterBurst_cs s 100
@[simp] theorem State.restarted_cfg : s.restarted.cfg = s.cfg := by
  unfold State.restarted
  exact State.afterBurst_cfg s 100
@[simp] theorem State.restarted_restartLimit : s.restarted.restartLimit = s.restartLimit := by
  unfold State.restarted
  exact State.afterBurst_restartLimit s 100
@[simp] theorem State.restarted_profile : s.restarted.profile = s.profile := by
  unfold State.restarted
  exact State.afterBurst_profile s 100
@[simp] theorem State.restarted_buf : s.restarted.buf = s.buf := by
  unfold State.restarted
  exact State.afterBurst_buf s 100
@[simp] theorem State.afterRestarts_zero : s.afterRestarts 0 = s := rfl
theorem State.afterRestarts_succ : s.afterRestarts (n + 1) = s.restarted.afterRestarts n := rfl
@[simp] theorem State.put_restart :
    (s.put p w).afterRestarts n = (s.afterRestarts n).put p w := by
  induction n generalizing s with
  | zero => rfl
  | succ n ih => rw [State.afterRestarts_succ, State.afterRestarts_succ, State.put_restarted, ih]
@[simp] theorem State.put_afterWait : (s.put p w).afterWait x = (s.afterWait x).put p w := by
  simp [State.afterWait]
theorem State.put_self {s : State} {p : Pos} (h : s.phase = .run p) : s.put p s.work = s := by
  cases s; simp_all [State.put]
theorem State.afterRestarts_frame : (s.afterRestarts n).cs = s.cs ∧ (s.afterRestarts n).cfg = s.cfg ∧
   (s.afterRestarts n).restartLimit = s.restartLimit ∧ (s.afterRestarts n).profile = s.profile ∧ (s.afterRestarts n).buf = s.buf := by
  induction n generalizing s with
  | zero => exact ⟨rfl, rfl, rfl, rfl, rfl⟩
  | succ n ih =>
    rw [State.afterRestarts_succ]
    simpa using ih s.restarted
@[simp] theorem State.afterRestarts_cs : (s.afterRestarts n).cs = s.cs := (State.afterRestarts_frame s n).1
@[simp] theorem State.afterRestarts_cfg : (s.afterRestarts n).cfg = s.cfg := (State.afterRestarts_frame s n).2.1
@[simp] theorem State.afterRestarts_restartLimit : (s.afterRestarts n).restartLimit = s.restartLimit := (State.afterRestarts_frame s n).2.2.1
@[simp] theorem State.afterRestarts_profile : (s.afterRestarts n).profile = s.profile := (State.afterRestarts_frame s n).2.2.2.1
@[simp] theorem State.afterRestarts_buf : (s.afterRestarts n).buf = s.buf := (State.afterRestarts_frame s n).2.2.2.2
@[simp] theorem State.afterWait_cs : (s.afterWait x).cs = s.cs := by simp [State.afterWait]
@[simp] theorem State.afterWait_cfg : (s.afterWait x).cfg = s.cfg := by simp [State.afterWait]
@[simp] theorem State.afterWait_restartLimit : (s.afterWait x).restartLimit = s.restartLimit := by simp [State.afterWait]
@[simp] theorem State.afterWait_profile : (s.afterWait x).profile = s.profile := by simp [State.afterWait]
@[simp] theorem State.afterWait_buf : (s.afterWait x).buf = s.buf := by simp [State.afterWait]
end

theorem samples_length (j : Nat) (s : State) : (s.samples j).length = j := by
  simp [State.samples, State.answers, burstBytes]

theorem busyBurst_last {s : State} (h : s.busyBurst) : busyByte ((s.samples 100).getLastD 0) := by
  have hl := samples_length 100 s
  cases hs : s.samples 100 with
  | nil => simp [hs] at hl
  | cons a l =>
    rw [List.getLastD_cons]
    apply h
    rw [hs, List.getLastD_eq_getLast?, List.getLast?_eq_getElem?]
    by_cases hl : l = []
    · simp [hl]
    · have : l.length - 1 < l.length := by have := List.length_pos_iff.2 hl; omega
      rw [List.getElem?_eq_getElem this]; simp

/-- The working registers no wait changes. -/
def Work.sameArgs (w v : Work) : Prop :=
  w.opAddr = v.opAddr ∧ w.opLen = v.opLen ∧ w.a = v.a ∧ w.n = v.n ∧ w.i = v.i

/-- The instruction is about to open a burst of a wait. -/
structure AtBurst (i : Instr) (s : State) (rest : List Stmt) (w : Work) : Prop where
  opens : exec i s = beginTxn rdsrTxn (.pollEnd :: rest) { s with work := w }
  fresh : w.k = 0
  free : s.cs = false


theorem Work.sameArgs_refl (w : Work) : w.sameArgs w := ⟨rfl, rfl, rfl, rfl, rfl⟩
theorem Work.sameArgs_trans {u v w : Work} (h : u.sameArgs v) (h' : v.sameArgs w) : u.sameArgs w := by
  obtain ⟨a, b, c, d, e⟩ := h
  obtain ⟨a', b', c', d', e'⟩ := h'
  exact ⟨a.trans a', b.trans b', c.trans c', d.trans d', e.trans e'⟩

theorem AtBurst_of_burst {i : Instr} (ht : StepsTodo i) {s : State} {rest : List Stmt} (h : s.phase = .run (.at (.pollBurst :: rest))) (hc : s.cs = false) :
    AtBurst i s rest { s.work with k := 0 } := ⟨(ht _ _ h).trans rfl, rfl, hc⟩

/-- One full burst with its restart and its window. -/
theorem run_restarted {i : Instr} (hw : StepsWire i rdsrTxn) (ht : StepsTodo i) {rest : List Stmt} {s : State}
    {w : Work} (h : AtBurst i s rest w) (hl : s.restartLimit = 0 ∨ w.bursts + 1 < s.restartLimit.toNat)
    (hb : s.busyBurst) :
    ∃ v, runInstr i 104 s = .next (s.restarted.put (.at (.pollBurst :: rest)) v) ∧ v.sameArgs w ∧
      v.bursts = w.bursts + 1 := by
  have e := run_burst hw h.opens h.fresh h.free (j := 100) (by omega) (by omega)
    (fun b hb' => hb b (List.dropLast_subset _ hb')) (.inr rfl)
  have hn : ready ((s.samples 100).getLastD 0) = false := (not_ready_iff _).2 (busyBurst_last hb)
  have hl' := State.afterBurst_restartLimit s 100
  unfold State.restarted
  generalize (s.samples 100).getLastD 0 = x at e hn
  generalize s.afterBurst 100 = b at e hl' ⊢
  refine ⟨{ w with s := x, k := 100, bursts := w.bursts + 1 }, ?_, ⟨rfl, rfl, rfl, rfl, rfl⟩, rfl⟩
  rw [show 104 = (100 + 3) + 1 from rfl, runInstr_add e, runInstr_step ((ht _ _ rfl).trans ?_), runInstr_zero]
  rw [resume, if_neg (by simp [hn]), pollRestart, if_neg]
  · rfl
  · rintro ⟨h1, h2⟩
    rcases hl with hl | hl
    · exact h1 (hl'.trans hl)
    · have h2 : b.restartLimit.toNat ≤ w.bursts + 1 := h2
      rw [hl'] at h2
      omega

/-- n full bursts with their restarts and windows, and then about to open the next one. -/
theorem run_restarts {i : Instr} (hw : StepsWire i rdsrTxn) (ht : StepsTodo i) {rest : List Stmt}
    (n : Nat) {s : State} {p : Pos} {w : Work} (hp : s.phase = .run p) (h : AtBurst i s rest w)
    (hl : s.restartLimit = 0 ∨ w.bursts + n < s.restartLimit.toNat) (hb : s.busyFor n) :
    ∃ q u v, runInstr i (104 * n) s = .next ((s.afterRestarts n).put q u) ∧
      AtBurst i ((s.afterRestarts n).put q u) rest v ∧ v.sameArgs w ∧ v.bursts = w.bursts + n := by
  induction n generalizing s p w with
  | zero =>
    refine ⟨p, s.work, w, ?_, ?_, w.sameArgs_refl, rfl⟩
    · rw [State.afterRestarts_zero, State.put_self hp]; rfl
    · rw [State.afterRestarts_zero, State.put_self hp]; exact h
  | succ n ih =>
    obtain ⟨v, e, hv, hvb⟩ := run_restarted hw ht h (hl.imp_right fun h => by omega) (hb 0 (by omega))
    have h1 := AtBurst_of_burst ht (s := s.restarted.put (.at (.pollBurst :: rest)) v) (rest := rest) rfl
      (by simpa using h.free)
    obtain ⟨q, u, v', e', h', hv', hvb'⟩ := ih (s := s.restarted.put (.at (.pollBurst :: rest)) v) rfl h1
      (hl.imp (by simp) fun h => by simp [hvb]; omega) (fun k hk => by
        have := hb (k + 1) (by omega)
        rw [State.afterRestarts_succ] at this
        simpa [State.busyBurst] using this)
    rw [State.put_restart, State.put_put] at e' h'
    refine ⟨q, u, v', ?_, h', ?_, ?_⟩
    · rw [show 104 * (n + 1) = 104 + 104 * n by omega, runInstr_add e, e', State.afterRestarts_succ]
    · exact Work.sameArgs_trans hv' (Work.sameArgs_trans ⟨rfl, rfl, rfl, rfl, rfl⟩ hv)
    · rw [hvb']; simp [hvb]; omega

theorem getLastD_snoc (l : List Byte) (a d : Byte) : (l ++ [a]).getLastD d = a := by
  simp

/-- A wait that ends well, from its first Select to its last Deselect: the next step finds it ready. -/
theorem run_wait {i : Instr} (hw : StepsWire i rdsrTxn) (ht : StepsTodo i) {rest : List Stmt} {s : State}
    {x : Wait} (hp : s.phase = .run (.at (.waitReady :: rest))) (hc : s.cs = false) (hx : s.waits x) :
    ∃ v, runInstr i (104 * x.restarts + x.sample + 3) s =
        .next ((s.afterWait x).put (.at (.pollEnd :: rest)) v) ∧
      v.sameArgs s.work ∧ ready v.s = true := by
  obtain ⟨hl, hb, h1, h2, busy, last, e, hr, hbusy⟩ := hx
  have h0 : AtBurst i s rest { s.work with bursts := 0, k := 0 } := ⟨(ht _ _ hp).trans rfl, rfl, hc⟩
  obtain ⟨q, u, v, e1, ha, hv, hvb⟩ := run_restarts hw ht x.restarts hp h0 (by simpa using hl) hb
  have e2 := run_burst hw ha.opens ha.fresh ha.free h1 h2 (by simp [e]; exact hbusy) (.inl (by simp [e]; exact hr))
  refine ⟨{ v with s := last, k := x.sample }, ?_,
    Work.sameArgs_trans ⟨rfl, rfl, rfl, rfl, rfl⟩ (Work.sameArgs_trans hv ⟨rfl, rfl, rfl, rfl, rfl⟩),
    (ready_iff _).2 hr⟩
  rw [Nat.add_assoc, runInstr_add e1, e2, State.put_samples, e, getLastD_snoc, State.put_afterBurst, State.put_put]
  rfl

/-- A wait that meets the poll bound completes the command with TIMEOUT (R262, R173). -/
theorem run_timeout {i : Instr} (hw : StepsWire i rdsrTxn) (ht : StepsTodo i) {rest : List Stmt} {s : State}
    {l : Nat} (hp : s.phase = .run (.at (.waitReady :: rest))) (hc : s.cs = false)
    (hl : s.restartLimit.toNat = l + 1) (hx : s.busyFor (l + 1)) :
    runInstr i (104 * (l + 1)) s = .next (((s.afterRestarts l).afterBurst 100).completed .timeout) := by
  have h0 : AtBurst i s rest { s.work with bursts := 0, k := 0 } := ⟨(ht _ _ hp).trans rfl, rfl, hc⟩
  obtain ⟨q, u, v, e1, ha, hv, hvb⟩ := run_restarts hw ht l hp h0 (by right; simp; omega) (fun k hk => hx k (by omega))
  have hb : ((s.afterRestarts l).put q u).busyBurst := hx l (by omega)
  have e2 := run_burst hw ha.opens ha.fresh ha.free (j := 100) (by omega) (by omega)
    (fun b hb' => hb b (List.dropLast_subset _ hb')) (.inr rfl)
  have hn : ready ((((s.afterRestarts l).put q u).samples 100).getLastD 0) = false := (not_ready_iff _).2 (busyBurst_last hb)
  rw [show 104 * (l + 1) = 104 * l + ((100 + 3) + 1) by omega, runInstr_add e1, runInstr_add e2]
  rw [State.put_afterBurst, State.put_put]
  have hl' : ((s.afterRestarts l).afterBurst 100).restartLimit = s.restartLimit := by simp
  have hc' : ((s.afterRestarts l).afterBurst 100).cs = false := by simp [hc]
  generalize (((s.afterRestarts l).put q u).samples 100).getLastD 0 = y at hn
  generalize (s.afterRestarts l).afterBurst 100 = b at hl' hc' ⊢
  rw [runInstr_step ((ht _ _ rfl).trans ?_), runInstr_zero]
  rw [resume, if_neg (by simp [hn]), pollRestart, if_pos]
  · exact abort_free (e := .timeout) (by exact hc')
  · refine ⟨?_, ?_⟩
    · show b.restartLimit ≠ 0
      rw [hl']; intro h; rw [h] at hl; simp at hl
    · show b.restartLimit.toNat ≤ v.bursts + 1
      rw [hl', hvb]; simp; omega

end Sys2Proof.Machine
end

