-- ==== Sys2Proof/Tests/Slice0.lean ====
section
/-! SUPPORT. Tests of one step each, with results taken from spec/ (95_test_vectors.md and the rules' own
examples), and a witness for every statement that has hypotheses. -/

namespace Sys2Proof.Tests

open Sys2Proof Sys2Proof.Machine

/-! ### Small states -/

/-- The reference parameters with the window at host address 0. -/
def tcfg : Config := { Config.reference with fseqBase := 0 }

/-- Reset, and the device answers these bytes. -/
def idle (answers : List Byte) : State := { State.resetOf tcfg with flash := .draws answers 0 }

/-- A command accepted with these operands and this profile, at its start. -/
def begun (w : Word) (a : Addr) (n : Half) (p : Profile) (answers : List Byte) : State :=
  accept w { idle answers with addr := a, len := n, profile := p }

/-- A command at a point of its pseudocode, the bus free. -/
def before (todo : List Stmt) (s : State) : State := { s with phase := .run (.at todo), cs := false }

/-- A command inside a transaction. -/
def inside (t : Txn) (acts : List Act) (todo : List Stmt) (s : State) : State :=
  { s with phase := .run (.wire t acts todo), cs := true }

/-- Profile A with SECTORS = 512 and profile B, as spec/95_test_vectors.md names them. -/
def pA : Profile := profileA 0x41
def pB : Profile := profileB tcfg 0x15

/-- What a step left, seen through a projection; none if it did not answer a next state. -/
def seen (r : Res) (f : State → α) : Option α :=
  match r with
  | .next t => some (f t)
  | .fault _ => none
  | .refused _ => none

/-- The fault a step ended in. -/
def faultOf (r : Res) : Option Fault :=
  match r with
  | .fault f => some f
  | .next _ => none
  | .refused _ => none

/-! ### WellFormed: every check refuses an ill-formed term -/

theorem test_reference_legal : tcfg.legal = true ∧ tcfg.opcodesDistinct = true := by decide
theorem test_legal_mfr : [{ tcfg with mfrB := tcfg.mfrA }, { tcfg with mfrC := tcfg.mfrA },
    { tcfg with mfrD := tcfg.mfrA }, { tcfg with mfrC := tcfg.mfrB }, { tcfg with mfrD := tcfg.mfrB },
    { tcfg with mfrD := tcfg.mfrC }].all (fun c => !c.legal) = true := by decide
theorem test_legal_buf : [0, 3, 6, 0xF004].all (fun n => !{ tcfg with bufBytes := n }.legal) = true := by
  decide
theorem test_legal_buf_bounds : [4, 0xF000].all (fun n => { tcfg with bufBytes := n }.legal) = true := by
  decide
theorem test_legal_prefix : { tcfg with legacyIdPrefix := [0, 0, 0, 0, 0] }.legal = false := by decide
theorem test_opcodes_distinct : { tcfg with opWren := 0x20 }.opcodesDistinct = false := by decide
theorem test_legal_default : Profile.legalDefault pA = false := by decide
theorem test_row_is_no_command : (HostLine.cmd .spiWren).wellFormed = false := by decide
theorem test_line_ranges : [HostLine.w32 0x10000 0, .w32 0 0x100000000, .r32 0x10000,
    .poll 0x10000 0 0, .poll 0 0x100000000 0, .poll 0 0 0x100000000, .addr 0x1000000, .len 0x10000,
    .bufw 2 [], .bufw 0xF000 [], .bufw 0 [0, 0, 0, 0, 0], .bufw 0 [0x100], .limit 0x10000].all
      (fun l => !l.wellFormed) = true := by decide

/-! ### Decoding: words written out bit by bit (R121, R130) -/

theorem test_decode_commands :
    [0b00000000000000000000000000000001, 0b00000000000000000000000000000010,
      0b00000000000000000000000100000010, 0b00000000000000000000000000000011,
      0b00000000000000000000000000000100, 0b00000000000000000000000000000101,
      0b00000000000000000000000000000110, 0b00000000000000000000000000000111,
      0b00000000000000000000000000001000, 0b00000000000000000000000000001001].map (decodeTableWord 32) =
    [some .detect, some (.setProtect false), some (.setProtect true), some .waitReady,
      some .eraseSector, some .eraseAll, some .write, some .writeByte, some .read,
      some .readDelim] := by decide
theorem test_decode_opcodes :
    [0b00000001, 0b00000010, 0b00000011, 0b00000101, 0b00001011, 0b00100000, 0b01010000, 0b10101101,
      0b10101111, 0b11000111, 0b00000110, 0b00000100, 0b10000000, 0b10011111, 0b10010000].map
        (decodeTableWord 8) =
    [some .spiWrsr, some .spiPp, some .spiRead, some .spiRdsr, some .spiFastRead, some .spiSe,
      some .spiEwsr, some .spiAaiA, some .spiAaiLegacy, some .spiCe, some .spiWren, some .spiWrdi,
      some .spiDbsy, some .spiRdid, some .spiRdidLegacy] := by decide
/-- CD-1 to CD-6. -/
theorem test_decode_illegal :
    [0x00000000, 0x0000000A, 0x000000FF, 0x00000101, 0x00000202, 0x80000008].all
      (fun w => decodeTableWord 32 w == none) = true := by decide
theorem test_decode_no_opcode : decodeTableWord 8 0x00 = none ∧ decodeTableWord 16 0x06 = none := by decide

/-! ### The host port -/

/-- HP-5 and HP-6. -/
theorem test_host_addr : seen (hostAccess (.write 0x004 .word 0xFF123456) (idle [])) (readReg 0x004) =
    some 0x00123456 := by decide
theorem test_host_len : seen (hostAccess (.write 0x008 .word 0x12345678) (idle [])) (readReg 0x008) =
    some 0x00005678 := by decide
/-- HP-7. -/
theorem test_host_buf : seen (hostAccess (.write 0x1000 .word 0x44332211) (idle []))
    (fun t => [t.buf.read 0, t.buf.read 1, t.buf.read 2, t.buf.read 3]) =
    some [some 0x11, some 0x22, some 0x33, some 0x44] := by decide
/-- HP-8. -/
theorem test_host_unwritten : faultOf (hostAccess (.read 0x1000 .word) (idle [])) =
    some (.uninitBufRead 0) := by decide
/-- HP-9. -/
theorem test_host_status_clear :
    seen (hostAccess (.write 0x00C .word 0x400) { idle [] with done := true, busyAcc := true })
      (readReg 0x00C) = some 0x002 := by decide
/-- HP-2. -/
theorem test_host_misaligned : seen (hostAccess (.write 0x002 .word 7) (idle []))
    (fun t => (t.faults, readReg 0x000 t)) = some ([.hostBusError 0x002], 0) := by decide
/-- CD-9. -/
theorem test_host_cmd_while_busy :
    seen (hostAccess (.write 0x000 .word 1) (begun 3 0 0 pA [])) (fun t => (t.cmd, t.busyAcc)) =
      some (3, true) := by decide
/-- R136. -/
theorem test_assemble : assembleLine (.bufw 8 [0x11, 0x22, 0x33]) =
    some (.access (.write 0x1008 .word 0x00332211)) := by decide

/-! ### One step of each instruction -/

/-- A DETECT that has received its three identification bytes. -/
def identified (m d c : Byte) : State :=
  let s := begun 0x00000001 0 0 tcfg.resetProfile []
  before [.resolveId] { s with work := { s.work with id0 := m, id1 := d, id2 := c } }

/-- PROFILE0, SECTOR_COUNT, USABLE_SECTORS, STATUS. -/
def shown (s : State) : List Word := [0x014, 0x018, 0x01C, 0x00C].map (fun off => readReg off s)

/-- The last bus event. -/
def lastEvent (s : State) : Option BusEvent := s.history.getLast?

/-- DT-1, DT-8, DT-9, DT-10, DT-12. -/
theorem test_detect_families :
    [identified 0xBF 0x25 0x41, identified 0xEF 0x40 0x1F, identified 0xC2 0x25 0x35,
      identified 0xC2 0x20 0x16, identified 0x1F 0x45 0x01].map (fun s => seen (execDetect s) shown) =
    [some [0x1AAD3C50, 512, 511, 0x202], some [0x25021C06, 524288, 524287, 0x202],
      some [0x45023C06, 512, 511, 0x202], some [0x35023C06, 1024, 1023, 0x202],
      some [0x6AAD3C50, 512, 511, 0x302]] := by decide
/-- DT-13: LEGACY_ID and the legacy profile. -/
theorem test_detect_legacy :
    seen (execDetect (before [.resolveLegacy]
      { begun 1 0 0 tcfg.resetProfile [] with
          work := { Work.blank with lid0 := 0xBF, lid1 := 0x49, lid2 := 0xBF, lid3 := 0x49 } }))
      (fun t => readReg 0x024 t :: shown t) =
    some [0xBF49BF49, 0x59AF0C50, 32, 31, 0x202] := by decide
/-- SP-6. -/
theorem test_set_protect_no_mask :
    seen (execSetProtect true (begun 0x102 0 0 { pA with pmask := 0 } []))
      (fun t => (t.history, readReg 0x00C t)) = some ([], 0x002) := by decide
/-- SP-3: SR_EN is 0x06 under profile B; then 01 1C. -/
theorem test_set_protect_b :
    seen (execSetProtect true (begun 0x102 0 0 pB [])) (fun t => (t.phase.acts, t.phase.todo)) =
      some ([.send 0x06], [.txn { op := 0x01, fmt := .wrsr 0x1C }, .complete .ok]) := by decide
/-- WT-3: only bit 0 is tested. -/
theorem test_wait_ready_sample :
    seen (execWaitReady (inside rdsrTxn [.sampleNext] [.pollEnd]
      { begun 3 0 0 pA [] with work := { Work.blank with s := 0xFE, k := 1 } }))
      (fun t => (lastEvent t, readReg 0x030 t)) = some (some .desel, 0xFE) := by decide
/-- WT-5: TIMEOUT with no window. -/
theorem test_wait_ready_timeout :
    seen (execWaitReady (before [.pollEnd, .complete .ok]
      { begun 3 0 0 pA [] with restartLimit := 1, work := { Work.blank with s := 0x01, k := 100 } }))
      (fun t => (t.history, readReg 0x00C t, t.restarts)) = some ([], 0x042, 0) := by decide
/-- ER-1. -/
theorem test_erase_sector :
    seen (execEraseSector (before [.txn (seTxn 0x001234), .waitReady, .complete .ok]
      (begun 4 0x001234 0 pA []))) (fun t => t.phase.acts) =
    some [.send 0x20, .send 0x00, .send 0x12, .send 0x34] := by decide
/-- ER-3. -/
theorem test_erase_all :
    seen (execEraseAll (before [.txn ceTxn, .waitReady, .complete .ok] (begun 5 0 0 pA [])))
      (fun t => t.phase.acts) = some [.send 0xC7] := by decide
/-- R315: a length of 0 completes with OK and no event. -/
theorem test_write_zero : seen (execWrite (begun 6 0x100 0 pA []))
    (fun t => (t.history, readReg 0x00C t)) = some ([], 0x002) := by decide
/-- R401. -/
theorem test_write_len : seen (execWrite (begun 6 0x100 4097 pA []))
    (fun t => (t.history, readReg 0x00C t)) = some ([], 0x022) := by decide
/-- R318: 0x5A goes as 0xA5. -/
theorem test_write_byte :
    seen (execWriteByte (inside (ppTxn 0x10 0 1) [.sendBuf 0 1] []
      { begun 7 0x10 0 pA [0x77] with buf := [(0, 0x5A)] })) lastEvent =
    some (some (.xfer 0xA5 0x77)) := by decide
/-- R343: EE is stored as 11; the last byte ends the transaction. -/
theorem test_read_stores :
    seen (execRead (inside (readTxn pA 0x100 false) [.recvNext false 0xEE] [.finishRead]
      { begun 8 0x100 1 pA [] with work := { Work.blank with n := 1 } }))
      (fun t => (t.buf, lastEvent t)) = some ([(0, 0x11)], some .desel) := by decide
/-- R343: the fast framing of profile B. -/
theorem test_read_fast : seen (execRead (begun 8 0x000100 2 pB [])) (fun t => t.phase.acts) =
    some [.send 0x0B, .send 0x00, .send 0x01, .send 0x00, .send 0x00, .recvFirst false] := by decide
/-- R345: a physical 0xF5 stops the read, a physical 0x0A does not. -/
theorem test_read_delim :
    [(0xF5 : Byte), 0x0A].map (fun p =>
      seen (execReadDelim (inside (readTxn pA 0 true) [.recvNext true p] [.finishDelim]
        { begun 9 0 3 pA [0xEE] with work := { Work.blank with n := 3 } }))
        (fun t => (t.buf, lastEvent t))) =
    [some ([(0, 0x0A)], some .desel), some ([(0, 0xF5)], some (.xfer 0x00 0xEE))] := by decide
/-- SP-1: the status byte goes raw. -/
theorem test_spi_wrsr :
    seen (execSpiWrsr (inside (wrsrTxn pA true) [.send 0x3C] [] (begun 0x102 0 0 pA [0])))
      lastEvent = some (some (.xfer 0x3C 0)) := by decide
/-- WR-1: 34 goes as CB. -/
theorem test_spi_pp :
    seen (execSpiPp (inside (ppTxn 0x100 0 3) [.sendBuf 1 2] []
      { begun 6 0x100 3 pB [0] with buf := [(0, 0x12), (1, 0x34), (2, 0x56)] }))
      (fun t => (lastEvent t, t.phase.acts)) = some (some (.xfer 0xCB 0), [.sendBuf 2 1]) := by decide
/-- R341. -/
theorem test_spi_read :
    seen (execSpiRead (before [.txn { op := 0x03, fmt := .read 0x100 false }]
      (begun 8 0x100 2 pA []))) (fun t => t.phase.acts) =
    some [.send 0x03, .send 0x00, .send 0x01, .send 0x00, .recvFirst false] := by decide
/-- WT-8: the 100th sample ends the burst. -/
theorem test_spi_rdsr :
    seen (execSpiRdsr (inside rdsrTxn [.sampleNext] [.pollEnd]
      { begun 3 0 0 pA [] with work := { Work.blank with s := 0x01, k := 100 } })) lastEvent =
    some (some .desel) := by decide
/-- R341: the dummy byte. -/
theorem test_spi_fast_read :
    seen (execSpiFastRead (inside { op := 0x0B, fmt := .fread 0x100 false }
      [.send 0x00, .recvFirst false] [] (begun 8 0x100 2 pB [0xAB])))
      (fun t => (lastEvent t, t.phase.acts)) = some (some (.xfer 0x00 0xAB), [.recvFirst false]) := by
  decide
/-- ER-2. -/
theorem test_spi_se :
    seen (execSpiSe (before [.txn (seTxn 0xFFFFFF)] (begun 4 0xFFFFFF 0 pA [])))
      (fun t => t.phase.acts) = some [.send 0x20, .send 0xFF, .send 0xFF, .send 0xFF] := by decide
/-- SP-1. -/
theorem test_spi_ewsr :
    seen (execSpiEwsr (inside (srEnTxn pA) [.send 0x50] [] (begun 0x102 0 0 pA [0]))) lastEvent =
      some (some (.xfer 0x50 0)) := by decide
/-- WR-2: the second chunk of an odd payload ends with the raw pad 0xFF. -/
theorem test_spi_aai_a_pad :
    seen (execSpiAaiA (inside (aaiNextTxn pA) [.chunkNext true] []
      { begun 6 0x100 3 pA [0] with work := { Work.blank with i := 2, n := 1 } }))
      (fun t => (lastEvent t, t.work.i, t.work.n)) = some (some (.xfer 0xFF 0), 3, 0) := by decide
/-- WR-2: the first chunk's address and bytes. -/
theorem test_spi_aai_a_first :
    seen (execSpiAaiA (before [.txn (aaiFirstTxn pA)]
      { begun 6 0x100 3 pA [] with work := { Work.blank with a := 0x000100, n := 3 } }))
      (fun t => t.phase.acts) =
    some [.send 0xAD, .send 0x00, .send 0x01, .send 0x00, .chunkFirst true] := by decide
/-- R131: one byte a chunk under the legacy profile. -/
theorem test_spi_aai_legacy :
    seen (execSpiAaiLegacy (before [.txn (aaiNextTxn (profileLegacy tcfg pA))]
      (begun 6 0x100 3 (profileLegacy tcfg pA) []))) (fun t => t.phase.acts) =
    some [.send 0xAF, .chunkFirst false] := by decide
/-- R130: the one-byte rows send their opcodes. -/
theorem test_spi_one_byte_rows :
    [(execSpiCe, ceTxn), (execSpiWren, wrenTxn tcfg), (execSpiWrdi, wrdiTxn tcfg),
      (execSpiDbsy, dbsyTxn tcfg)].map (fun x =>
        seen (x.1 (before [.txn x.2] (begun 6 0 0 pA []))) (fun t => t.phase.acts)) =
    [some [.send 0xC7], some [.send 0x06], some [.send 0x04], some [.send 0x80]] := by decide
/-- DT-1: the second identification byte is d. -/
theorem test_spi_rdid :
    seen (execSpiRdid (inside (rdidTxn tcfg) [.recvId .id1, .recvId .id2] []
      (begun 1 0 0 pA [0x25]))) (fun t => (lastEvent t, t.work.id1)) =
    some (some (.xfer 0x00 0x25), 0x25) := by decide
/-- R206: the opcode, the prefix, four response bytes. -/
theorem test_spi_rdid_legacy :
    seen (execSpiRdidLegacy (before [.txn { op := 0x90, fmt := .lid }] (begun 1 0 0 pA [])))
      (fun t => t.phase.acts) =
    some [.send 0x90, .send 0x00, .send 0x00, .send 0x00, .recvId .lid0, .recvId .lid1, .recvId .lid2,
      .recvId .lid3] := by decide

/-! ### Witnesses: states and operands that meet the hypotheses of each statement -/

/-- A device that always answers 0x00, and one whose status is always busy. -/
def zeros : List Byte := List.replicate 40 0x00
def ones : List Byte := List.replicate 220 0x01

/-- The whole instruction list, SET_PROTECT with both values of ARG. -/
def allInstrs : List Instr :=
  [.detect, .setProtect false, .setProtect true, .waitReady, .eraseSector, .eraseAll, .write, .writeByte,
    .read, .readDelim, .spiWrsr, .spiPp, .spiRead, .spiRdsr, .spiFastRead, .spiSe, .spiEwsr, .spiAaiA,
    .spiAaiLegacy, .spiCe, .spiWren, .spiWrdi, .spiDbsy, .spiRdid, .spiRdidLegacy]

theorem witness_DecodeInvertsEncode :
    Instr.wellFormed .spiRdidLegacy = true ∧ Instr.isCommand .spiRdidLegacy = false ∧
      tcfg.opcodesDistinct = true ∧ decode tcfg (.opcode 0x90) = .ok .spiRdidLegacy ∧
      Instr.isCommand (.setProtect true) = true :=
  ⟨rfl, rfl, by decide, rfl, rfl⟩

theorem witness_IllegalWordCompletes :
    (∀ w ∈ [0x00000000, 0x0000000A, 0x000000FF, 0x00000101, 0x00000200, 0x80000008],
      (begun w 0 0 pA []).atStart ∧ (begun w 0 0 pA []).cmd = w ∧ ∃ e, decodeWord w = .error e) ∧
    (∀ w ∈ [0x00000001, 0x00000009, 0x00000002, 0x00000102], ∃ i, decodeWord w = .ok i) := by
  constructor
  · intro w hw
    simp only [List.mem_cons, List.not_mem_nil, or_false] at hw
    rcases hw with rfl | rfl | rfl | rfl | rfl | rfl <;> exact ⟨⟨rfl, rfl⟩, rfl, _, rfl⟩
  · intro w hw
    simp only [List.mem_cons, List.not_mem_nil, or_false] at hw
    rcases hw with rfl | rfl | rfl | rfl <;> exact ⟨_, rfl⟩

theorem witness_StepRunsDecoded :
    let s := begun 0x102 0 0 pA []
    let t := wrenTxn tcfg
    (s.cfg.legal = true ∧ s.nextTurn = .sequencer ∧ s.phase = .run .start ∧
      decodeWord s.cmd = .ok (.setProtect true)) ∧
    ((inside t [] [] s).nextTurn = .sequencer ∧ t.instr tcfg = some .spiWren) ∧
    (before [.txn t] s).nextTurn = .sequencer :=
  ⟨⟨by decide, rfl, rfl, rfl⟩, ⟨rfl, rfl⟩, rfl⟩

theorem witness_FetchWordRuns :
    (idle []).cfg.legal = true ∧ decodeTableWord 32 1 = some .detect ∧
      (idle []).cfg.opcodesDistinct = true ∧ decodeTableWord 8 0x06 = some .spiWren ∧
      tableTxn (idle []).cfg .spiWren = some (wrenTxn tcfg) := by decide

theorem witness_CommandOwnsItsSteps :
    (begun 3 0 0 pA []).busy = true ∧ decodeWord (begun 3 0 0 pA []).cmd = .ok .waitReady :=
  ⟨rfl, rfl⟩

theorem witness_EveryInstructionStarts :
    allInstrs.all (fun i => i.isCommand ||
      match tableTxn tcfg i with
      | some t => decide (t.instr tcfg = some i)
      | none => false) = true ∧
    (begun 1 0 0 pA []).phase = .run .start ∧ (begun 1 0 0 pA []).cs = false := by decide

theorem witness_ResetAbandons :
    let s := { inside (wrenTxn tcfg) [] [] (begun 4 0 0 pA []) with sched := [.reset] }
    s.cfg.legal = true ∧ s.nextTurn = .reset ∧ s.cs = true ∧ s.flash = .draws [] 0 := by decide

/-- An aligned offset outside BUF; an aligned offset inside it. -/
def outsideBuf (c : Config) (off : Offset) : Bool :=
  decide (off.toNat % 4 = 0) &&
    (decide (off.toNat < 0x1000) || decide (0x1000 + c.bufBytes ≤ off.toNat))
def insideBuf (c : Config) (off : Offset) : Bool :=
  decide (off.toNat % 4 = 0) &&
    (decide (0x1000 ≤ off.toNat) && decide (off.toNat < 0x1000 + c.bufBytes))

theorem witness_RegisterReads :
    [(0x000 : Offset), 0x00C, 0x030, 0x034, 0xFFC, 0x2000, 0xFFFC].all (outsideBuf tcfg) = true := by
  decide

theorem witness_IdleRegisterWrites :
    (idle []).busy = false ∧
    [(0x004 : Offset), 0x008, 0x010, 0x028, 0x030, 0x034, 0xFFC, 0x2000, 0xFFFC].all
      (fun off => outsideBuf tcfg off && off != 0x000 && off != 0x00C) = true := by decide

theorem witness_AcceptanceIsAtomic : (idle []).busy = false := by decide

theorem witness_BusyRefusesHost :
    (begun 4 0 0 pA []).busy = true ∧
    [(0x000 : Offset), 0x004, 0x008, 0x028, 0x00C, 0x010, 0xFFC, 0x2000].all (outsideBuf tcfg) = true ∧
    [(0x1000 : Offset), 0x1FFC].all (insideBuf tcfg) = true := by decide

theorem witness_BufWordLanes :
    (idle []).busy = false ∧ tcfg.bufLegal = true ∧
      [(0x1000 : Offset), 0x1FFC].all (insideBuf tcfg) = true := by decide

/-- At k = 0, at k = 3, in a page program, and at the first and at the second byte of a chunk. -/
theorem witness_UnwrittenByteFaults :
    (∀ l, l < 0 → ∃ b, (idle []).buf.read l = some b) ∧ (idle []).buf.read 0 = none ∧
    (let s := { idle [] with buf := [(0, 1), (1, 2), (2, 3)] }
     (∀ l, l < 3 → ∃ b, s.buf.read (0 + l) = some b) ∧ s.buf.read 3 = none ∧ s.busy = false) ∧
    (let s := inside (ppTxn 0 0 1) [.sendBuf 0 1] [] (begun 7 0 0 pA [])
     s.phase = .run (.wire (ppTxn 0 0 1) [.sendBuf 0 1] []) ∧ s.buf.read 0 = none) ∧
    (let s := inside (aaiNextTxn pA) [.chunkFirst true] [] (begun 6 0 1 pA [])
     s.phase = .run (.wire (aaiNextTxn pA) [.chunkFirst true] []) ∧
       s.buf.read s.work.i.toNat = none) ∧
    (let s := inside (aaiNextTxn pA) [.chunkNext true] []
       { begun 6 0 2 pA [] with buf := [(0, 0x11)], work := { Work.blank with n := 2 } }
     s.phase = .run (.wire (aaiNextTxn pA) [.chunkNext true] []) ∧ s.work.n ≠ 1 ∧
       s.buf.read (s.work.i + 1).toNat = none) := by
  refine ⟨fun l h => absurd h (Nat.not_lt_zero l), rfl, ⟨?_, rfl, rfl⟩, ⟨rfl, rfl⟩, ⟨rfl, rfl⟩, rfl,
    by decide, rfl⟩
  intro l h
  match l, h with
  | 0, _ => exact ⟨_, rfl⟩
  | 1, _ => exact ⟨_, rfl⟩
  | 2, _ => exact ⟨_, rfl⟩

theorem witness_OnlyAlignedWordsAdmitted :
    ¬ (AccessSize.half = .word ∧ (0x00C : Offset).toNat % 4 = 0) ∧
    ¬ (AccessSize.word = .word ∧ (0x002 : Offset).toNat % 4 = 0) ∧
    (AccessSize.word = .word ∧ (0xFFFC : Offset).toNat % 4 = 0) ∧
    seen (hostAccess (.read 0x00C .word) (idle [])) (fun t => t.faults) = some [] := by decide

/-- A POLL that goes on, a POLL that repeats, and addresses at both ends of the window and after it. -/
theorem witness_HostRunsInOrder :
    (∀ v ∈ [(0 : Word), 1],
      let s := { idle [] with host := [.poll 0x000 0xFFFFFFFF v] }
      seen (hostAccess (.read 0x000 .word) s) (fun u => u.responses) =
        some (s.responses ++ [.data 0x000 0])) ∧
    (∀ off ∈ [0, 0xFFFF],
      { idle [] with host := [.readAt (tcfg.fseqBase + off) .word] }.host =
        [.readAt ((idle []).cfg.fseqBase + off) .word] ∧ off < 0x10000) ∧
    { idle [] with host := [.writeAt 0x10000 .word 7] }.host =
      [.writeAt ((idle []).cfg.fseqBase + 0x10000) .word 7] := by
  refine ⟨?_, ?_, rfl⟩
  · intro v h
    simp only [List.mem_cons, List.not_mem_nil, or_false] at h
    rcases h with rfl | rfl <;> rfl
  intro off h
  simp only [List.mem_cons, List.not_mem_nil, or_false] at h
  rcases h with rfl | rfl <;> exact ⟨rfl, by decide⟩

theorem witness_PseudoInstructionsExpand :
    (∀ w ∈ [0, 0x3BFF], 0x1000 + 4 * w < 0x10000) ∧ 2 % 4 ≠ 0 ∧ 0xF000 % 4 = 0 ∧
      4 < [0, 0, 0, 0, 0].length ∧ (∃ b ∈ [0, 256], 256 ≤ b) ∧
      Instr.isCommand .spiPp = false := by decide

theorem witness_InvariantAtReset :
    tcfg.legal = true ∧ { tcfg with bufBytes := 4 }.legal = true ∧
      { tcfg with bufBytes := 0xF000 }.legal = true := by decide

/-- The state for the invariant's statements: a READ of one byte about to receive it. -/
def reading : State :=
  inside (readTxn tcfg.resetProfile 0 false) [.recvFirst false] [.finishRead]
    { begun 8 0 1 tcfg.resetProfile [0xEE] with
        work := { Work.blank with opLen := 1, n := 1 }, history := [.sel] }

/-- A wait whose burst has been busy to the end. -/
def exhausted (limit : Half) : State :=
  before [.pollEnd, .complete .ok]
    { begun 3 0 0 tcfg.resetProfile [] with
        restartLimit := limit, work := { Work.blank with s := 0x01, k := 100 } }

/-- Idle after a DETECT of DT-1. -/
def detected : State :=
  { idle [] with profile := pA, usableSectors := 511, profileLocked := true, jedecId := 0xBF2541 }

theorem inv_reading : Inv reading := by
  constructor <;> first | exact trivial | rfl | decide

theorem inv_exhausted : Inv (exhausted 0) ∧ Inv (exhausted 1) := by
  constructor <;> constructor <;>
    first | exact trivial | rfl | decide

theorem inv_detected : Inv detected := by
  constructor <;> first | exact trivial | rfl | decide

theorem witness_InvariantKept : Inv reading ∧ ∃ t, step reading = .next t := ⟨inv_reading, _, rfl⟩

theorem witness_OnlyFaultIsUnwrittenByte : Inv (exhausted 0) := inv_exhausted.1

theorem witness_HistoryAndFaultsOnlyGrow : ∃ t, step (idle []) = .next t := ⟨_, rfl⟩

/-- A step with an event, and a step that completes. -/
theorem witness_OneEventPerStep :
    (reading.busy = true ∧ ∃ t, seqStep reading = .next t ∧ t.busy = true) ∧
    ((exhausted 1).busy = true ∧ ∃ t, seqStep (exhausted 1) = .next t ∧ t.busy = false) :=
  ⟨⟨rfl, _, rfl, rfl⟩, rfl, _, rfl, rfl⟩

/-- By its completion, and by a reset. -/
theorem witness_CommandEndsByCompletionOrReset :
    ((exhausted 1).busy = true ∧ ∃ t, step (exhausted 1) = .next t ∧ t.busy = false) ∧
    (reading.busy = true ∧ ∃ t, step { reading with sched := [.reset] } = .next t ∧ t.busy = false) :=
  ⟨⟨rfl, _, rfl, rfl⟩, rfl, _, rfl, rfl⟩

theorem witness_TimeoutOnlyFromBoundedWait :
    Inv (exhausted 1) ∧ (exhausted 1).busy = true ∧
      ∃ t, seqStep (exhausted 1) = .next t ∧ t.busy = false ∧ t.err = .timeout :=
  ⟨inv_exhausted.2, rfl, _, rfl, rfl, rfl⟩

/-- A window, and another event. -/
theorem witness_WindowIsItsOwnStep :
    (Inv (exhausted 0) ∧ (exhausted 0).busy = true ∧
      ∃ t, seqStep (exhausted 0) = .next t ∧ t.history = (exhausted 0).history ++ [.window]) ∧
    (Inv reading ∧ reading.busy = true ∧
      ∃ t, seqStep reading = .next t ∧ t.history ≠ reading.history ++ [.window]) :=
  ⟨⟨inv_exhausted.1, rfl, _, rfl, rfl⟩, inv_reading, rfl, _, rfl, by decide⟩

theorem witness_ProfileFixedOnceLocked :
    Inv detected ∧ detected.profileLocked = true ∧ detected.nextTurn ≠ .reset ∧
      ∃ t, step detected = .next t := ⟨inv_detected, rfl, by decide, _, rfl⟩

/-- A step that stores a received byte, one that publishes a sample, and one that does neither. -/
theorem witness_SequencerFrame :
    (let s := inside (readTxn pA 0 false) [.recvNext false 0xEE] [.finishRead]
       { begun 8 0 1 pA [] with work := { Work.blank with n := 1 } }
     s.phase.acts = [.recvNext false 0xEE] ∧ ∃ t, exec .read s = .next t) ∧
    (let s := inside rdsrTxn [.sampleNext] [.pollEnd] (begun 3 0 0 pA [])
     s.phase.acts.head? = some .sampleNext ∧ ∃ t, exec .waitReady s = .next t) ∧
    (let s := begun 4 0 0 pA []
     s.phase.todo.any Stmt.resolves = false ∧
       ∃ t, exec .eraseSector s = .next t ∧ t.busy = true) :=
  ⟨⟨rfl, _, rfl⟩, ⟨rfl, _, rfl⟩, rfl, _, rfl, rfl⟩

/-- The host writes ADDR while an erase runs. -/
theorem witness_HostCannotDisturbCommand :
    let s := { begun 4 0 0 pA [] with host := [w32 0x004 0x1000] }
    s.busy = true ∧ (∃ u, hostStep s = .next u ∧ u.busyAcc = true) ∧
      ∃ t, exec .eraseSector s = .next t := ⟨rfl, ⟨_, rfl, rfl⟩, _, rfl⟩

theorem witness_DetectLocked :
    let s := { begun 1 0 0 pA [] with profileLocked := true }
    s.atStart ∧ s.profileLocked = true := ⟨⟨rfl, rfl⟩, rfl⟩

/-- The four known families: DT-1, DT-8, DT-9, DT-10. -/
theorem witness_DetectKnownFamily :
    let c := tcfg
    let s := fun as => begun 1 0 0 tcfg.resetProfile as
    let os := [c.opRdid, c.fill, c.fill, c.fill]
    (∀ as, (s as).atStart ∧ (s as).profileLocked = false) ∧ c.mfrDistinct = true ∧
    (s [0, 0xBF, 0x25, 0x41]).answers os = [0, 0xBF, 0x25, 0x41] ∧ 0xBF = c.mfrA ∧
    (s [0, 0xEF, 0x40, 0x1F]).answers os = [0, 0xEF, 0x40, 0x1F] ∧ 0xEF = c.mfrB ∧
    (s [0, 0xC2, 0x25, 0x35]).answers os = [0, 0xC2, 0x25, 0x35] ∧ 0xC2 = c.mfrC ∧
      0x25 = c.cExtDev ∧ 0x35 = c.cExtCap ∧
    (s [0, 0xC2, 0x20, 0x16]).answers os = [0, 0xC2, 0x20, 0x16] ∧ 0x20 = c.cStdDev ∧
      ¬ ((0x20 : Byte) = c.cExtDev ∧ (0x16 : Byte) = c.cExtCap) :=
  ⟨fun _ => ⟨⟨rfl, rfl⟩, rfl⟩, by decide, rfl, rfl, rfl, rfl, rfl, rfl, rfl, rfl, rfl, rfl, by decide⟩

/-- DT-12. -/
theorem witness_DetectManufacturerD :
    let s := begun 1 0 0 tcfg.resetProfile [0, 0x1F, 0x45, 0x01]
    s.atStart ∧ s.profileLocked = false ∧ s.cfg.mfrDistinct = true ∧ s.cfg.dFallback = false ∧
      s.answers [s.cfg.opRdid, s.cfg.fill, s.cfg.fill, s.cfg.fill] = [0, s.cfg.mfrD, 0x45, 0x01] :=
  ⟨⟨rfl, rfl⟩, rfl, by decide, rfl, rfl⟩

/-- DT-13 and DT-11: a match and no match of the fallback's response. -/
theorem witness_DetectFallback :
    let idBytes := [tcfg.opRdid, tcfg.fill, tcfg.fill, tcfg.fill]
    let lidBytes := tcfg.opRdidLegacy :: tcfg.legacyIdPrefix ++
      [tcfg.fill, tcfg.fill, tcfg.fill, tcfg.fill]
    (let s := begun 1 0 0 tcfg.resetProfile [0, 0, 0, 0, 0, 0, 0, 0, 0xBF, 0x49, 0xBF, 0x49]
     s.atStart ∧ s.profileLocked = false ∧ s.answers idBytes = [0, 0, 0, 0] ∧
       (s.afterTxn idBytes).answers lidBytes = [0, 0, 0, 0] ++ [0xBF, 0x49, 0xBF, 0x49]) ∧
    ((0 : Byte) ≠ tcfg.mfrA ∧ (0 : Byte) ≠ tcfg.mfrB ∧ (0 : Byte) ≠ tcfg.mfrC ∧
       (0 : Byte) ≠ tcfg.mfrD) ∧
    (let s := begun 1 0 0 tcfg.resetProfile [0, 0xC2, 0x25, 0x36, 0, 0, 0, 0, 0xFF, 0xFF, 0xFF, 0xFF]
     s.atStart ∧ s.profileLocked = false ∧ s.answers idBytes = [0, 0xC2, 0x25, 0x36] ∧
       (s.afterTxn idBytes).answers lidBytes = [0, 0, 0, 0] ++ [0xFF, 0xFF, 0xFF, 0xFF]) ∧
    ((0xC2 : Byte) ≠ tcfg.mfrA ∧ (0xC2 : Byte) ≠ tcfg.mfrB ∧ (0xC2 : Byte) ≠ tcfg.mfrD ∧
       (0x36 : Byte) ≠ tcfg.cExtCap ∧ (0x25 : Byte) ≠ tcfg.cStdDev) := by
  exact ⟨⟨⟨rfl, rfl⟩, rfl, rfl, rfl⟩, by decide, ⟨⟨rfl, rfl⟩, rfl, rfl, rfl⟩, by decide⟩

theorem witness_SetProtectRun :
    (begun 0x102 0 0 pA []).atStart ∧ (begun 0x102 0 0 pA []).profile.pmask ≠ 0 ∧
      (begun 0x102 0 0 { pA with pmask := 0 } []).atStart ∧
      (begun 0x102 0 0 { pA with pmask := 0 } []).profile.pmask = 0 :=
  ⟨⟨rfl, rfl⟩, by decide, ⟨rfl, rfl⟩, rfl⟩

/-! Waits. `now` is a wait that ends at its first sample. -/

def now : Wait := { restarts := 0, sample := 1 }

theorem busyFor_zero (s : State) : s.busyFor 0 := fun k h => absurd h (Nat.not_lt_zero k)

/-- A wait is over at once where the first sample is ready. -/
theorem waits_now (s : State) (b : Byte) (hl : s.restartLimit = 0) (h : s.samples 1 = [b])
    (hb : readyByte b) : s.waits now :=
  ⟨.inl hl, busyFor_zero s, by decide, by decide, [], b, h, hb, by simp⟩

theorem busyFor_one (s : State) (h : s.busyBurst) : s.busyFor 1 := by
  intro k hk
  obtain rfl : k = 0 := by omega
  exact h

/-- A device with queued answers gives them in order. -/
theorem converse_queue (cfg : Config) (rest : List Byte) (n : Nat) :
    ∀ os as : List Byte, as.length = os.length →
      (Flash.draws (as ++ rest) n).converse cfg os = (as, .draws rest n)
  | [], [], _ => rfl
  | _ :: os, b :: as, h => by
    simp [Flash.converse, Flash.answer, converse_queue cfg rest n os as (by simpa using h)]

/-- A burst of a device with queued status bytes. -/
theorem burst_queue (s : State) (x : Byte) (as rest : List Byte) (n : Nat)
    (hf : s.flash = .draws (x :: as ++ rest) n) :
    s.samples as.length = as ∧ (s.afterBurst as.length).flash = .draws rest n := by
  have h := converse_queue s.cfg rest n (burstBytes s.cfg as.length) (x :: as) (by simp [burstBytes])
  simp only [State.samples, State.answers, State.afterBurst, State.afterTxn, hf, Flash.select, h]
  exact ⟨rfl, rfl⟩

def waiting (limit : Half) (answers : List Byte) : State :=
  { begun 3 0 0 pA answers with restartLimit := limit }

/-- One hundred busy samples. -/
theorem busyBurst_queue (s : State) (x : Byte) (rest : List Byte) (n : Nat)
    (hf : s.flash = .draws (x :: List.replicate 100 0x01 ++ rest) n) : s.busyBurst := by
  have h := (burst_queue s x _ rest n hf).1
  rw [List.length_replicate] at h
  intro b hb
  rw [h] at hb
  rw [(List.mem_replicate.1 hb).2]
  exact rfl

/-- One busy burst, then a burst whose 100th sample is the first ready one. -/
theorem waits_second (s : State) (n : Nat) (hl : s.restartLimit.toNat = 2)
    (hf : s.flash = .draws (0 :: List.replicate 100 0x01 ++
      (0 :: (List.replicate 99 0x01 ++ [0x00]) ++ [])) n) :
    s.waits { restarts := 1, sample := 100 } := by
  have h1 := (burst_queue s 0 _ _ n hf).2
  rw [List.length_replicate] at h1
  have hw : ∀ u : State, u.windowed.flash = u.flash := fun _ => rfl
  have h2 := (burst_queue s.restarted 0 (List.replicate 99 0x01 ++ [0x00]) [] n ((hw _).trans h1)).1
  have hn : (List.replicate 99 (0x01 : Byte) ++ [(0x00 : Byte)]).length = 100 := by simp
  rw [hn] at h2
  refine ⟨.inr (hl ▸ by decide), busyFor_one _ (busyBurst_queue s 0 _ n hf), by decide, by decide,
    List.replicate 99 0x01, 0x00, h2, rfl, ?_⟩
  intro b hb
  rw [(List.mem_replicate.1 hb).2]
  exact rfl

/-- At the first sample (WT-3), and at the 100th sample of the second burst under a limit of 2. -/
theorem witness_WaitReadyRun :
    ((waiting 0 [0, 0xFE]).atStart ∧ (waiting 0 [0, 0xFE]).waits now) ∧
    ∃ as, (waiting 2 as).atStart ∧ (waiting 2 as).waits { restarts := 1, sample := 100 } :=
  ⟨⟨⟨rfl, rfl⟩, waits_now _ 0xFE rfl rfl rfl⟩, _, ⟨rfl, rfl⟩, waits_second _ 0 rfl rfl⟩

theorem witness_WaitReadyTimesOut :
    let s := waiting 1 (0 :: List.replicate 100 0x01 ++ [])
    s.atStart ∧ s.restartLimit.toNat = 0 + 1 ∧ s.busyFor (0 + 1) :=
  ⟨⟨rfl, rfl⟩, rfl, busyFor_one _ (busyBurst_queue _ 0 [] 0 rfl)⟩

theorem witness_WaitReadyNeverGivesUp :
    let s := waiting 0 (0 :: List.replicate 100 0x01 ++ [])
    s.atStart ∧ s.restartLimit = 0 ∧ s.busyFor 1 :=
  ⟨⟨rfl, rfl⟩, rfl, busyFor_one _ (busyBurst_queue _ 0 [] 0 rfl)⟩

/-! Programs, reads and rows. The device answers 0x00 throughout, so that every wait ends at once. -/

/-- A piece list whose waits all end at once holds where the device's queue is long enough. -/
theorem holds_now (s : State) (hl : s.restartLimit = 0) (h : s.samples 1 = [0x00]) :
    (Piece.wait now).holds s := waits_now s 0x00 hl h rfl

theorem witness_EraseSectorRun :
    let s := begun 4 0xFFFFFF 0 pA zeros
    s.atStart ∧ piecesHold [.txn [s.cfg.opWren], .txn ((0x20 : Byte) :: addrBytesNat s.work.opAddr),
      .wait now] s := ⟨⟨rfl, rfl⟩, trivial, trivial, holds_now _ rfl rfl, trivial⟩

theorem witness_EraseAllRun :
    let s := begun 5 0 0 pA zeros
    s.atStart ∧ piecesHold [.txn [s.cfg.opWren], .txn [0xC7], .wait now] s :=
  ⟨⟨rfl, rfl⟩, trivial, trivial, holds_now _ rfl rfl, trivial⟩

/-- R318's own example, under profile A. -/
theorem witness_WriteByteRun :
    let s := { begun 7 0x000010 0 pA zeros with buf := [(0, 0x5A)] }
    s.atStart ∧ s.buf.read 0 = some 0x5A ∧
      piecesHold (directPieces s.cfg s.work.opAddr [0x5A] now) s :=
  ⟨⟨rfl, rfl⟩, rfl, trivial, trivial, holds_now _ rfl rfl, trivial, trivial⟩

/-- Three bytes in BUF. -/
def writing (p : Profile) (a : Addr) (n : Half) : State :=
  { begun 6 a n p zeros with buf := [(0, 0x11), (1, 0x22), (2, 0x33)] }

theorem bufHolds_three : bufHolds [(0, 0x11), (1, 0x22), (2, 0x33)] [0x11, 0x22, 0x33] := by
  intro j b h
  match j, h with
  | 0, h => exact h
  | 1, h => exact h
  | 2, h => exact h
  | _ + 3, h => cases h

theorem bufHolds_one : bufHolds [(0, 0x11), (1, 0x22), (2, 0x33)] [0x11] := by
  intro j b h
  match j, h with
  | 0, h => exact h
  | _ + 1, h => cases h

/-- WR-1. -/
theorem witness_WriteDirectRun :
    let s := writing pB 0x000100 3
    s.atStart ∧ s.profile.aai = false ∧ [(0x11 : Byte), 0x22, 0x33].length = s.work.opLen.toNat ∧
      3 ≤ s.cfg.bufBytes ∧ bufHolds s.buf [0x11, 0x22, 0x33] ∧
      piecesHold (directPieces s.cfg s.work.opAddr [0x11, 0x22, 0x33] now) s :=
  ⟨⟨rfl, rfl⟩, rfl, rfl, by decide, bufHolds_three, trivial, trivial, holds_now _ rfl rfl, trivial,
    trivial⟩

/-- WR-2 (even), WR-3 (odd), an odd address with one byte, at the top of the address space, and one byte a
chunk under the legacy profile. -/
theorem witness_WriteAutoIncrementRun :
    (let s := writing pA 0x000100 3
     s.atStart ∧ s.profile.aai = true ∧ 3 = s.work.opLen.toNat ∧ bufHolds s.buf [0x11, 0x22, 0x33] ∧
       piecesHold (aaiPieces s.cfg s.profile s.work.opAddr [0x11, 0x22, 0x33] now (fun _ => now)) s) ∧
    (let s := writing pA 0x000101 3
     s.atStart ∧ s.profile.aai = true ∧ 3 = s.work.opLen.toNat ∧ bufHolds s.buf [0x11, 0x22, 0x33] ∧
       piecesHold (aaiPieces s.cfg s.profile s.work.opAddr [0x11, 0x22, 0x33] now (fun _ => now)) s) ∧
    (let s := writing pA 0xFFFFFF 1
     s.atStart ∧ s.profile.aai = true ∧ 1 = s.work.opLen.toNat ∧ bufHolds s.buf [0x11] ∧
       piecesHold (aaiPieces s.cfg s.profile s.work.opAddr [0x11] now (fun _ => now)) s) ∧
    (let s := writing (profileLegacy tcfg pA) 0x000101 3
     s.atStart ∧ s.profile.aai = true ∧ 3 = s.work.opLen.toNat ∧ bufHolds s.buf [0x11, 0x22, 0x33] ∧
       piecesHold (aaiPieces s.cfg s.profile s.work.opAddr [0x11, 0x22, 0x33] now (fun _ => now)) s) := by
  refine ⟨⟨⟨rfl, rfl⟩, rfl, rfl, bufHolds_three, ?_⟩, ⟨⟨rfl, rfl⟩, rfl, rfl, bufHolds_three, ?_⟩,
    ⟨⟨rfl, rfl⟩, rfl, rfl, bufHolds_one, ?_⟩, ⟨rfl, rfl⟩, rfl, rfl, bufHolds_three, ?_⟩
  · exact ⟨trivial, trivial, trivial, holds_now _ rfl rfl, trivial, holds_now _ rfl rfl, trivial, trivial⟩
  · exact ⟨trivial, trivial, trivial, holds_now _ rfl rfl, trivial, trivial, trivial,
      holds_now _ rfl rfl, trivial, trivial⟩
  · exact ⟨trivial, trivial, trivial, holds_now _ rfl rfl, trivial, trivial⟩
  · exact ⟨trivial, trivial, trivial, holds_now _ rfl rfl, trivial, holds_now _ rfl rfl, trivial,
      holds_now _ rfl rfl, trivial, trivial⟩

theorem witness_LengthChecks :
    (begun 6 0 4097 pA []).atStart ∧ (begun 6 0 4097 pA []).work.opLen.toNat = 4097 ∧
      tcfg.bufBytes = 4096 ∧ (begun 8 0 0 pA []).atStart ∧ (begun 8 0 0 pA []).work.opLen = 0 :=
  ⟨⟨rfl, rfl⟩, rfl, rfl, ⟨rfl, rfl⟩, rfl⟩

/-- The answers of a device that stays busy for the wait of an erase or of a direct program. -/
def stuck (n : Nat) : List Byte := List.replicate n 0 ++ (0 :: List.replicate 100 0x01 ++ [])

/-- A wait before the stuck one that ends at its first sample holds under a limit of 1 too. -/
theorem waits_now_bounded (s : State) (b : Byte) (hl : s.restartLimit.toNat = 1)
    (h : s.samples 1 = [b]) (hb : readyByte b) : s.waits now :=
  ⟨.inr (hl ▸ by decide), busyFor_zero s, by decide, by decide, [], b, h, hb, by simp⟩

/-- The erases, WRITE_BYTE, and WRITE: on the direct path, in its odd-address pre-step, in the wait of the
first chunk (WR-13), and in that of the last chunk after a wait that ended well. -/
theorem witness_TimeoutSkipsTheRest :
    (let s := { begun 4 0x001000 0 pA (stuck 5) with restartLimit := 1 }
     let ps := [.txn [s.cfg.opWren], .txn ((0x20 : Byte) :: addrBytesNat s.work.opAddr)]
     s.atStart ∧ CommandPieces s .eraseSector (ps ++ .wait now :: []) ∧ piecesHold ps s ∧
       s.restartLimit.toNat = 0 + 1 ∧ (afterPieces ps s).busyFor 1) ∧
    (let s := { begun 5 0 0 pA (stuck 2) with restartLimit := 1 }
     let ps := [.txn [s.cfg.opWren], .txn [0xC7]]
     s.atStart ∧ CommandPieces s .eraseAll (ps ++ .wait now :: []) ∧ piecesHold ps s ∧
       (afterPieces ps s).busyFor 1) ∧
    (let s := { begun 7 0 0 pA (stuck 6) with restartLimit := 1, buf := [(0, 0x5A)] }
     let ps := [.txn [s.cfg.opWren], .txn ((0x02 : Byte) :: addrBytesNat 0 ++ [0xFF - 0x5A])]
     s.atStart ∧ CommandPieces s .writeByte (ps ++ .wait now :: [.txn [s.cfg.opWrdi]]) ∧
       piecesHold ps s ∧ (afterPieces ps s).busyFor 1) ∧
    (let s := { writing pB 0x000100 3 with restartLimit := 1, flash := .draws (stuck 8) 0 }
     let ps := [.txn [s.cfg.opWren],
       .txn ((0x02 : Byte) :: addrBytesNat 0x000100 ++ [0xFF - 0x11, 0xFF - 0x22, 0xFF - 0x33])]
     s.atStart ∧ CommandPieces s .write (ps ++ .wait now :: [.txn [s.cfg.opWrdi]]) ∧
       piecesHold ps s ∧ (afterPieces ps s).busyFor 1) ∧
    (let s := { writing pA 0x000101 1 with restartLimit := 1, flash := .draws (stuck 7) 0 }
     let ps := [.txn [s.cfg.opDbsy], .txn [s.cfg.opWren],
       .txn ((0x02 : Byte) :: addrBytesNat 0x000101 ++ [0xFF - 0x11])]
     s.atStart ∧ CommandPieces s .write (ps ++ .wait now :: [.txn [s.cfg.opWrdi]]) ∧
       piecesHold ps s ∧ (afterPieces ps s).busyFor 1) ∧
    (let s := { writing pA 0x000100 3 with restartLimit := 1, flash := .draws (stuck 8) 0 }
     let ps := [.txn [s.cfg.opDbsy], .txn [s.cfg.opWren],
       .txn ((0xAD : Byte) :: addrBytesNat 0x000100 ++ [0xFF - 0x11, 0xFF - 0x22])]
     let qs := [.txn [0xAD, 0xFF - 0x33, 0xFF], .wait now, .txn [s.cfg.opWrdi]]
     s.atStart ∧ CommandPieces s .write (ps ++ .wait now :: qs) ∧
       piecesHold ps s ∧ (afterPieces ps s).busyFor 1) ∧
    (let s := { writing pA 0x000100 3 with restartLimit := 1, flash := .draws (stuck 13) 0 }
     let ps := [.txn [s.cfg.opDbsy], .txn [s.cfg.opWren],
       .txn ((0xAD : Byte) :: addrBytesNat 0x000100 ++ [0xFF - 0x11, 0xFF - 0x22]), .wait now,
       .txn [0xAD, 0xFF - 0x33, 0xFF]]
     s.atStart ∧ CommandPieces s .write (ps ++ .wait now :: [.txn [s.cfg.opWrdi]]) ∧
       piecesHold ps s ∧ (afterPieces ps s).busyFor 1) := by
  refine ⟨⟨⟨rfl, rfl⟩, .eraseSector _, ⟨trivial, trivial, trivial⟩, rfl, ?_⟩,
    ⟨⟨rfl, rfl⟩, .eraseAll _, ⟨trivial, trivial, trivial⟩, ?_⟩,
    ⟨⟨rfl, rfl⟩, .writeByte 0x5A now rfl, ⟨trivial, trivial, trivial⟩, ?_⟩,
    ⟨⟨rfl, rfl⟩, .writeDirect [0x11, 0x22, 0x33] now rfl rfl (by decide) (by decide) bufHolds_three,
      ⟨trivial, trivial, trivial⟩, ?_⟩,
    ⟨⟨rfl, rfl⟩, .writeAai [0x11] now (fun _ => now) rfl rfl (by decide) (by decide) bufHolds_one,
      ⟨trivial, trivial, trivial, trivial⟩, ?_⟩,
    ⟨⟨rfl, rfl⟩, .writeAai [0x11, 0x22, 0x33] now (fun _ => now) rfl rfl (by decide) (by decide)
      bufHolds_three, ⟨trivial, trivial, trivial, trivial⟩, ?_⟩,
    ⟨rfl, rfl⟩, .writeAai [0x11, 0x22, 0x33] now (fun _ => now) rfl rfl (by decide) (by decide)
      bufHolds_three, ⟨trivial, trivial, trivial, waits_now_bounded _ 0 rfl rfl rfl, trivial, trivial⟩, ?_⟩
  all_goals exact busyFor_one _ (busyBurst_queue _ 0 [] 0 rfl)

/-- The whole buffer, one byte more, and no byte (R343). -/
theorem witness_ReadRun :
    (begun 8 0 4096 pB []).atStart ∧ (begun 8 0 4096 pB []).work.opLen.toNat = tcfg.bufBytes ∧
      (begun 8 0 4097 pB []).work.opLen.toNat = tcfg.bufBytes + 1 ∧
      (begun 8 0 0 pB []).work.opLen.toNat = 0 := ⟨⟨rfl, rfl⟩, rfl, rfl, rfl⟩

/-- A delimiter as the first byte, and none among the bytes; the whole buffer, one byte more, and no byte. -/
theorem witness_ReadDelimRun :
    (begun 9 0 1 pA [0, 0, 0, 0, 0xF5]).atStart ∧
      (begun 9 0 1 pA [0, 0, 0, 0, 0xF5]).readData 0 1 = [0xF5] ∧ delimCount [0xF5] = 1 ∧
      delimCount [0x0A, 0x00] = 2 ∧ (begun 9 0 1 pA []).work.opLen.toNat = 1 ∧
      (begun 9 0 4096 pA []).work.opLen.toNat = tcfg.bufBytes ∧
      (begun 9 0 4097 pA []).atStart ∧ (begun 9 0 4097 pA []).work.opLen.toNat = tcfg.bufBytes + 1 ∧
      (begun 9 0 0 pA []).atStart ∧ (begun 9 0 0 pA []).work.opLen.toNat = 0 :=
  ⟨⟨rfl, rfl⟩, rfl, rfl, rfl, rfl, rfl, ⟨rfl, rfl⟩, rfl, ⟨rfl, rfl⟩, rfl⟩

/-- A point before each of the rows with fixed bytes. -/
theorem witness_FixedRowsRun :
    FixedRow tcfg .spiEwsr (srEnTxn pA) [0x50] ∧ FixedRow tcfg .spiCe ceTxn [0xC7] ∧
    FixedRow tcfg .spiWren (wrenTxn tcfg) [0x06] ∧ FixedRow tcfg .spiWrdi (wrdiTxn tcfg) [0x04] ∧
    FixedRow tcfg .spiDbsy (dbsyTxn tcfg) [0x80] ∧
    FixedRow tcfg .spiWrsr (wrsrTxn pA true) [0x01, 0x3C] ∧
    FixedRow tcfg .spiSe (seTxn 0xFFFFFF) [0x20, 0xFF, 0xFF, 0xFF] ∧
    ∀ t, (before [.txn t] (begun 4 0 0 pA [])).phase = .run (.at [.txn t]) ∧
      (before [.txn t] (begun 4 0 0 pA [])).cs = false :=
  ⟨.ewsr, .ce, .wren, .wrdi, .dbsy, .wrsr _, .se _, fun _ => ⟨rfl, rfl⟩⟩

theorem witness_PageProgramRowRuns :
    let s := before [.txn { op := 0x02, fmt := .pp 0x100 0 3 }] (writing pB 0x100 3)
    (∀ j b, [(0x11 : Byte), 0x22, 0x33][j]? = some b → s.buf.read j = some b) ∧
      s.phase = .run (.at [.txn { op := 0x02, fmt := .pp 0x100 0 3 }]) ∧ s.cs = false :=
  ⟨bufHolds_three, rfl, rfl⟩

/-- Before an auto-increment row, with n bytes left from index i on. -/
def streaming (p : Profile) (t : Txn) (i n : Half) : State :=
  before [.txn t] { writing p 0x100 3 with work := { Work.blank with a := 0x100, i := i, n := n } }

theorem holds_at_two (j : Nat) (b : Byte) (h : [(0x33 : Byte)][j]? = some b) :
    (streaming pA (aaiNextTxn pA) 2 1).buf.read ((2 : Half) + BitVec.ofNat 16 j).toNat = some b := by
  match j, h with
  | 0, h => exact h
  | _ + 1, h => cases h

theorem holds_at_zero (j : Nat) (b : Byte) (h : [(0x11 : Byte), 0x22][j]? = some b) :
    (streaming pA (aaiFirstTxn pA) 0 3).buf.read ((0 : Half) + BitVec.ofNat 16 j).toNat = some b := by
  match j, h with
  | 0, h => exact h
  | 1, h => exact h
  | _ + 2, h => cases h

/-- Two bytes with the address, a last byte with its pad, and one byte a chunk. -/
theorem witness_AutoIncrementRowsRun :
    (let s := streaming pA (aaiFirstTxn pA) 0 3
     (aaiFirstTxn pA).op = 0xAD ∧ (aaiFirstTxn pA).fmt = .aai1 ∧ s.work.n ≠ 0 ∧
       [(0x11 : Byte), 0x22].length =
         (if s.profile.unit = .two ∧ 2 ≤ s.work.n.toNat then 2 else 1) ∧
       (∀ j b, [(0x11 : Byte), 0x22][j]? = some b →
         s.buf.read (s.work.i + BitVec.ofNat 16 j).toNat = some b)) ∧
    (let s := streaming pA (aaiNextTxn pA) 2 1
     (aaiNextTxn pA).op = 0xAD ∧ (aaiNextTxn pA).fmt = .aaiN ∧ s.work.n ≠ 0 ∧
       [(0x33 : Byte)].length = (if s.profile.unit = .two ∧ 2 ≤ s.work.n.toNat then 2 else 1) ∧
       (∀ j b, [(0x33 : Byte)][j]? = some b →
         s.buf.read (s.work.i + BitVec.ofNat 16 j).toNat = some b)) ∧
    (let s := streaming (profileLegacy tcfg pA) (aaiNextTxn (profileLegacy tcfg pA)) 2 1
     (aaiNextTxn (profileLegacy tcfg pA)).op = 0xAF ∧ s.work.n ≠ 0 ∧
       [(0x33 : Byte)].length = (if s.profile.unit = .two ∧ 2 ≤ s.work.n.toNat then 2 else 1) ∧
       (∀ j b, [(0x33 : Byte)][j]? = some b →
         s.buf.read (s.work.i + BitVec.ofNat 16 j).toNat = some b)) :=
  ⟨⟨rfl, rfl, by decide, rfl, holds_at_zero⟩, ⟨rfl, rfl, by decide, rfl, holds_at_two⟩, rfl, by decide,
    rfl, holds_at_two⟩

/-- A ready first sample, and one hundred busy ones. -/
theorem witness_ReadStatusRowRuns :
    (let s := before [.txn rdsrTxn] (waiting 0 [0, 0xFE])
     s.work.k = 0 ∧ s.cs = false ∧ s.readyAt 1) ∧
    (let s := before [.txn rdsrTxn] (waiting 0 (0 :: List.replicate 100 0x01 ++ []))
     s.work.k = 0 ∧ s.cs = false ∧ s.busyBurst) :=
  ⟨⟨rfl, rfl, by decide, by decide, [], 0xFE, rfl, rfl, by simp⟩, rfl, rfl, busyBurst_queue _ 0 [] 0 rfl⟩

theorem witness_ReadRowsRun :
    ∀ t : Txn, let s := streaming pA t 0xFFFD 2
      s.phase = .run (.at [.txn t]) ∧ s.cs = false ∧ s.work.n ≠ 0 ∧
        s.work.i.toNat + s.work.n.toNat < 2 ^ 16 :=
  fun _ => ⟨rfl, rfl, by show (2 : Half) ≠ 0; decide, by show 0xFFFD + 2 < 2 ^ 16; decide⟩

/-- The open status read: a ready first sample, and one hundred busy ones. -/
theorem witness_ReadStatusRowFinishes :
    (let s := inside rdsrTxn (rdsrTxn.acts tcfg pA Work.blank) [.pollEnd] (waiting 0 [0, 0xFE])
     s.phase = .run (.wire rdsrTxn (rdsrTxn.acts s.cfg s.profile s.work) [.pollEnd]) ∧ s.cs = true ∧
       s.work.k = 0 ∧ (s.replies (burstBytes s.cfg 1)).tail = [] ++ [0xFE] ∧ readyByte 0xFE) ∧
    (let s := inside rdsrTxn (rdsrTxn.acts tcfg pA Work.blank) [.pollEnd]
       (waiting 0 (0 :: List.replicate 100 0x01 ++ []))
     s.cs = true ∧ s.work.k = 0 ∧ ∀ b ∈ (s.replies (burstBytes s.cfg 100)).tail, busyByte b) := by
  refine ⟨⟨rfl, rfl, rfl, rfl, rfl⟩, rfl, rfl, ?_⟩
  intro b hb
  have h := converse_queue tcfg [] 0 (burstBytes tcfg 100) (0 :: List.replicate 100 0x01)
    (by simp [burstBytes])
  change b ∈ ((Flash.draws (0 :: List.replicate 100 0x01 ++ []) 0).converse tcfg
    (burstBytes tcfg 100)).1.tail at hb
  rw [h] at hb
  rw [(List.mem_replicate.1 hb).2]
  exact rfl

theorem witness_ReadRowsFinish :
    ∀ t : Txn,
      let w := { Work.blank with i := 0xFFFD, n := 2 }
      let s := inside t (t.acts tcfg pA w) [.finishRead] { begun 8 0x100 2 pA [] with work := w }
      s.phase = .run (.wire t (t.acts s.cfg s.profile s.work) [.finishRead]) ∧ s.cs = true ∧
        s.work.n ≠ 0 ∧ s.work.i.toNat + s.work.n.toNat < 2 ^ 16 :=
  fun _ => ⟨rfl, rfl, by show (2 : Half) ≠ 0; decide, by show 0xFFFD + 2 < 2 ^ 16; decide⟩

theorem witness_IdentificationRowsRun :
    (let s := before [.txn (rdidTxn tcfg)] (begun 1 0 0 pA [0, 0xBF, 0x25, 0x41])
     s.cs = false ∧ s.phase = .run (.at [.txn { op := s.cfg.opRdid, fmt := .rdid }]) ∧
       s.answers [s.cfg.opRdid, s.cfg.fill, s.cfg.fill, s.cfg.fill] = [0, 0xBF, 0x25, 0x41]) ∧
    (let s := before [.txn { op := 0x90, fmt := .lid }]
       (begun 1 0 0 pA [0, 0, 0, 0, 0xBF, 0x49, 0xBF, 0x49])
     s.cs = false ∧ s.phase = .run (.at [.txn { op := s.cfg.opRdidLegacy, fmt := .lid }]) ∧
       s.answers (s.cfg.opRdidLegacy :: s.cfg.legacyIdPrefix ++
         [s.cfg.fill, s.cfg.fill, s.cfg.fill, s.cfg.fill]) =
         [0, 0, 0, 0] ++ [0xBF, 0x49, 0xBF, 0x49]) :=
  ⟨⟨rfl, rfl, rfl⟩, rfl, rfl, rfl⟩

/-- A row in its transaction: with a byte to send, and at an unwritten BUF byte. -/
theorem witness_RowTakesItsEvent :
    (wrenTxn tcfg).instr tcfg = some .spiWren ∧
    (inside (wrenTxn tcfg) [.send 0x06] [] (begun 7 0 0 pA [])).cs = true ∧
    (ppTxn 0 0 1).instr tcfg = some .spiPp ∧
    (inside (ppTxn 0 0 1) [.sendBuf 0 1] [] (begun 7 0 0 pA [])).cs = true ∧
    (inside (ppTxn 0 0 1) [.sendBuf 0 1] [] (begun 7 0 0 pA [])).buf.read 0 = none :=
  ⟨rfl, rfl, rfl, rfl, rfl⟩

/-- RefChip, erased but for one byte, never busy. -/
def chip : RefChip :=
  { m := { fillByte := 0xFF, cells := [(0x1000, 0x12)] }, wel := false, srwe := false, bp := 0,
    aai := none, busyLeft := 0, id3 := (0xBF, 0x25, 0x41), lid4 := (0, 0, 0, 0), busyPolls := 0,
    sent := [] }

/-- An erase of the sector at 0x1000 before RefChip, and a READ of its last two bytes after it. -/
def erasing : State := { begun 4 0x001234 0 pA [] with flash := .refChip chip }

theorem witness_RefChipErasesSector : erasing.flash = .refChip chip ∧ tcfg.opcodesDistinct = true :=
  ⟨rfl, by decide⟩

theorem witness_RefChipPrograms :
    erasing.flash = .refChip chip ∧ [(0xEE : Byte), 0xFF] ≠ [] ∧ [(0xEE : Byte), 0xFF].length ≤ 2 ^ 24 :=
  ⟨rfl, by decide, by decide⟩

theorem witness_ErasedSectorReadsZero :
    let ps := [.txn [tcfg.opWren], .txn ((0x20 : Byte) :: addrBytesNat erasing.work.opAddr), .wait now]
    let u := { begun 8 0x001FFE 2 pA [] with flash := (afterPieces ps erasing).flash }
    erasing.atStart ∧ piecesHold ps erasing ∧ u.atStart ∧ u.cfg = erasing.cfg ∧
      u.work.opLen.toNat ≤ u.cfg.bufBytes ∧ u.work.opLen ≠ 0 ∧ u.work.opAddr.toNat / 4096 = erasing.work.opAddr.toNat / 4096 ∧
      u.work.opAddr.toNat % 4096 + u.work.opLen.toNat ≤ 4096 :=
  ⟨⟨rfl, rfl⟩, ⟨trivial, trivial, holds_now _ rfl rfl, trivial⟩, ⟨rfl, rfl⟩, rfl, by decide, by decide,
    rfl, by decide⟩

/-! ### RefChip: one transaction each (R97, R98) -/

/-- R97: SR = (BP & 0xFC) | (WEL << 1) | busy. -/
theorem test_refchip_status : { chip with bp := 0x3F, wel := true, busyLeft := 2 }.status = 0x3F := by
  decide
/-- R98: a program ANDs; the pad 0xFF keeps a byte. -/
theorem test_refchip_program :
    ((chip.m.program 0x1000 0x30).read 0x1000, (chip.m.program 0x1000 0xFF).read 0x1000) =
      (0x10, 0x12) := by decide

end Sys2Proof.Tests
end

/-! ## Proofs: host accesses (spec/20_memory.md) -/

namespace Sys2Proof.Machine

open Sys2Proof

/-! ### Which accesses are admitted, and what one that is not does (R83) -/

theorem admitted_iff {off : Offset} {size : AccessSize} :
    admitted off size = true ↔ size = .word ∧ off.toNat % 4 = 0 := by
  simp [admitted]

theorem hostAccess_read_not_admitted {off : Offset} {size : AccessSize} {s : State}
    (h : ¬ admitted off size = true) : hostAccess (.read off size) s = .next (busError off s) :=
  if_neg h

theorem hostAccess_write_not_admitted {off : Offset} {size : AccessSize} {v : Word} {s : State}
    (h : ¬ admitted off size = true) : hostAccess (.write off size v) s = .next (busError off s) :=
  if_neg h

theorem mem_recordFault_faults {f g : Fault} {s : State} :
    g ∈ (recordFault f s).faults ↔ g ∈ s.faults ∨ g = f := by
  unfold recordFault
  split
  case isTrue hf =>
    have absorbed : g = f → g ∈ s.faults := fun e => e ▸ hf
    exact (or_iff_left_of_imp absorbed).symm
  case isFalse => simp

theorem recordFault_frame (f : Fault) (s : State) :
    recordFault f s = { s with faults := (recordFault f s).faults } := by
  unfold recordFault
  split <;> rfl

/-- `recordFault` keeps the fault set a set, so the new faults are known by membership only. -/
theorem busError_spec (off : Offset) (s : State) :
    ∃ fs, busError off s = { s with faults := fs, responses := s.responses ++ [.busError off] } ∧
      ∀ f, f ∈ fs ↔ f ∈ s.faults ∨ f = .hostBusError off := by
  refine ⟨(recordFault (.hostBusError off) s).faults, ?_, fun _ => mem_recordFault_faults⟩
  unfold busError
  rw [recordFault_frame]
  rfl

/-! ### An admitted access records no fault (R83) -/

/-- BUSY or not, a guarded write keeps the faults if the write it guards does. -/
theorem whenIdle_faults {f : State → State} {s : State} (hf : (f s).faults = s.faults) :
    (whenIdle f s).faults = s.faults := by
  unfold whenIdle
  split
  case isTrue => exact setBusyAcc_faults s
  case isFalse => exact hf

@[simp] theorem writeReg_faults (off : Offset) (v : Word) (s : State) :
    (writeReg off v s).faults = s.faults := by
  unfold writeReg
  split
  · exact whenIdle_faults (accept_faults v s)
  split
  · exact whenIdle_faults rfl
  split
  · exact whenIdle_faults rfl
  split
  · exact clearW1c_faults v s
  split
  · exact whenIdle_faults rfl
  · rfl

@[simp] theorem hostWrite_faults (off : Offset) (v : Word) (s : State) :
    (hostWrite off v s).faults = s.faults := by
  unfold hostWrite
  split
  · exact whenIdle_faults rfl
  · exact writeReg_faults off v s

theorem hostRead_faults {off : Offset} {v : Word} {s t : State} (h : hostRead off s = .ok (v, t)) :
    t.faults = s.faults := by
  unfold hostRead at h
  split at h
  · split at h
    · cases h
      exact setBusyAcc_faults s
    · split at h
      · cases h
        rfl
      · cases h
  · cases h
    rfl

theorem hostAccess_read_admitted_faults {off : Offset} {size : AccessSize} {s t : State}
    (ha : admitted off size = true) (h : hostAccess (.read off size) s = .next t) :
    t.faults = s.faults := by
  simp only [hostAccess, if_pos ha] at h
  split at h
  · rename_i hread
    cases h
    exact (respond_faults _ _).trans (hostRead_faults hread)
  · cases h

theorem hostAccess_write_admitted_faults {off : Offset} {size : AccessSize} {v : Word} {s t : State}
    (ha : admitted off size = true) (h : hostAccess (.write off size v) s = .next t) :
    t.faults = s.faults := by
  simp only [hostAccess, if_pos ha] at h
  cases h
  exact (respond_faults _ _).trans (hostWrite_faults off v s)

/-- Settles O17: a read or write that is not admitted is `busError`, and an admitted one keeps the faults. -/
theorem onlyAlignedWordsAdmitted : Obligations.OnlyAlignedWordsAdmitted := by
  unfold Obligations.OnlyAlignedWordsAdmitted
  intro s off size v a hacc
  simp only [← admitted_iff]
  rcases hacc with rfl | rfl
  case inl =>
    refine ⟨fun hn => ?_, fun ha _ => hostAccess_read_admitted_faults ha⟩
    simpa only [hostAccess_read_not_admitted hn, Host.Outcome.next.injEq] using busError_spec off s
  case inr =>
    refine ⟨fun hn => ?_, fun ha _ => hostAccess_write_admitted_faults ha⟩
    simpa only [hostAccess_write_not_admitted hn, Host.Outcome.next.injEq] using busError_spec off s

end Sys2Proof.Machine

/-! ## Proofs: acceptance, refusal of illegal words, host accesses while BUSY (spec/40_dispatch.md) -/

namespace Sys2Proof.Machine

open Sys2Proof

/-! ### The command word's fields as numbers (R51), and the words R123 calls illegal -/

theorem cmdCode_toNat (w : Word) : (cmdCode w).toNat = w.toNat % 256 := by
  simp [cmdCode]

theorem cmdArg_iff (w : Word) : cmdArg w = true ↔ w.toNat / 256 % 2 = 1 := by
  simp [cmdArg, BitVec.getLsbD, Nat.testBit_eq_decide_div_mod_eq]

theorem cmdReserved_ne_zero_iff (w : Word) : cmdReserved w ≠ 0 ↔ 512 ≤ w.toNat := by
  have value : (cmdReserved w).toNat = w.toNat / 512 := by
    simp only [cmdReserved, BitVec.extractLsb'_toNat, Nat.shiftRight_eq_div_pow]
    omega
  rw [Ne, ← BitVec.toNat_inj, value]
  simp

theorem decodeCode_error_iff (c : Byte) :
    (∃ e, decodeCode c = .error e) ↔ c.toNat = 0 ∨ c.toNat = 2 ∨ 0x0A ≤ c.toNat := by
  unfold decodeCode
  repeat' split
  case isFalse =>
    simp only [Except.error.injEq, exists_eq', true_iff]
    bv_omega
  all_goals
    subst_vars
    simp

/-- The decoder's tests: a reserved bit, or, with a CODE that takes no ARG, a bad CODE or ARG = 1. -/
theorem decodeWord_error_iff (w : Word) :
    (∃ e, decodeWord w = .error e) ↔
      cmdReserved w ≠ 0 ∨
        (cmdCode w ≠ 0x02 ∧ ((∃ e, decodeCode (cmdCode w) = .error e) ∨ cmdArg w = true)) := by
  unfold decodeWord
  by_cases hr : cmdReserved w = 0#23
  case neg => simp [hr]
  by_cases hc : cmdCode w = 2#8
  case pos => simp [hr, hc]
  cases hd : decodeCode (cmdCode w) with
  | error e => simp [hr, hc]
  | ok i => cases ha : cmdArg w <;> simp [hr, hc]

theorem decodeWord_illegal_iff (w : Word) :
    (∃ e, decodeWord w = .error e) ↔
      w.toNat % 256 = 0 ∨ 0x0A ≤ w.toNat % 256 ∨ 512 ≤ w.toNat ∨
        (w.toNat / 256 % 2 = 1 ∧ w.toNat % 256 ≠ 2) := by
  have code_ne_two : cmdCode w ≠ 0x02 ↔ w.toNat % 256 ≠ 2 := by
    rw [← cmdCode_toNat, Ne, ← BitVec.toNat_inj]
    rfl
  rw [decodeWord_error_iff, decodeCode_error_iff, cmdReserved_ne_zero_iff, cmdArg_iff, code_ne_two,
    cmdCode_toNat]
  omega

/-! ### The step of an illegal word (R171) -/

theorem fetch_illegal {s : State} {e : Illegal} (hp : s.phase = .run .start)
    (hd : decodeWord s.cmd = .error e) : fetch s = none := by
  simp [fetch, hp, commandInstr, hd]

theorem seqStep_illegal {s : State} {e : Illegal} (hs : s.atStart)
    (hd : decodeWord s.cmd = .error e) : seqStep s = .next (s.completed .illegal) := by
  obtain ⟨hp, hc⟩ := hs
  calc seqStep s = stepUnnamed s := by simp only [seqStep, fetch_illegal hp hd]
    _ = runCommand illegalProgram s := by simp only [stepUnnamed, hp]
    _ = complete .illegal s := runCommand_start hp
    _ = .next (s.completed .illegal) := complete_free hc

/-- Settles O3: the decoder's tests read as numbers, and the one statement of the illegal program. -/
theorem illegalWordCompletes : Obligations.IllegalWordCompletes := by
  unfold Obligations.IllegalWordCompletes
  intro w
  refine ⟨decodeWord_illegal_iff w, ?_⟩
  rintro s hs rfl ⟨e, hd⟩
  exact ⟨Work.blank, seqStep_illegal hs hd⟩

/-! ### An aligned access, in BUF and outside it (R50, R82) -/

section
variable {s : State} {off : Offset} {v : Word}

theorem bufIndex_inside {c : Config} (h : 0x1000 ≤ off.toNat ∧ off.toNat < 0x1000 + c.bufBytes) :
    bufIndex c off = some (off.toNat - 0x1000) :=
  if_pos h

theorem bufIndex_outside {c : Config} (h : ¬ (0x1000 ≤ off.toNat ∧ off.toNat < 0x1000 + c.bufBytes)) :
    bufIndex c off = none :=
  if_neg h

theorem hostAccess_write_aligned (h : off.toNat % 4 = 0) :
    hostAccess (.write off .word v) s = .next (respond (.written off) (hostWrite off v s)) :=
  if_pos (admitted_iff.2 ⟨rfl, h⟩)

theorem hostAccess_read_aligned {t : State} (h : off.toNat % 4 = 0) (hr : hostRead off s = .ok (v, t)) :
    hostAccess (.read off .word) s = .next (respond (.data off v) t) := by
  simp only [hostAccess, if_pos (admitted_iff.2 ⟨rfl, h⟩), hr]

theorem hostWrite_inside {j : Nat} (h : bufIndex s.cfg off = some j) :
    hostWrite off v s = whenIdle (fun s => { s with buf := s.buf.writeList j (wordBytes v) }) s := by
  simp only [hostWrite, h]

theorem hostWrite_outside (h : bufIndex s.cfg off = none) : hostWrite off v s = writeReg off v s := by
  simp only [hostWrite, h]

theorem hostRead_outside (h : bufIndex s.cfg off = none) :
    hostRead off s = .ok (readReg off s, s) := by
  simp only [hostRead, h]

/-! ### Writes to CMD (R160) -/

theorem whenIdle_idle {f : State → State} (h : s.busy = false) : whenIdle f s = f s :=
  if_neg (by simp [h])

theorem hostWrite_cmd_idle (h : s.busy = false) : hostWrite 0x000 v s = accept v s :=
  (hostWrite_outside (bufIndex_outside (by simp))).trans (whenIdle_idle h)

end

/-- Settles O13: the host's step is `accept`, which snapshots ADDR and LEN, and its answer. -/
theorem acceptanceIsAtomic : Obligations.AcceptanceIsAtomic := by
  unfold Obligations.AcceptanceIsAtomic
  intro s v hidle
  refine ⟨(accept v s).work, rfl, rfl, ?_⟩
  rw [hostAccess_write_aligned rfl, hostWrite_cmd_idle hidle]
  rfl

/-! ### Host accesses while BUSY = 1 (R162) -/

section
variable {s : State} {off : Offset} {v : Word}

theorem writeReg_refused (hb : s.busy = true)
    (h : off = 0x000 ∨ off = 0x004 ∨ off = 0x008 ∨ off = 0x028) : writeReg off v s = setBusyAcc s := by
  rcases h with rfl | rfl | rfl | rfl <;> simp [writeReg, whenIdle_busy hb]

theorem writeReg_status : writeReg 0x00C v s = clearW1c v s :=
  rfl

theorem writeReg_ignored (hcmd : off ≠ 0x000) (haddr : off ≠ 0x004) (hlen : off ≠ 0x008)
    (hstatus : off ≠ 0x00C) (hpoll : off ≠ 0x028) : writeReg off v s = s := by
  simp only [writeReg, if_neg hcmd, if_neg haddr, if_neg hlen, if_neg hstatus, if_neg hpoll]

theorem hostWrite_refused (hb : s.busy = true)
    (h : off = 0x000 ∨ off = 0x004 ∨ off = 0x008 ∨ off = 0x028 ∨
      (0x1000 ≤ off.toNat ∧ off.toNat < 0x1000 + s.cfg.bufBytes)) :
    hostWrite off v s = setBusyAcc s := by
  by_cases hin : 0x1000 ≤ off.toNat ∧ off.toNat < 0x1000 + s.cfg.bufBytes
  case pos => rw [hostWrite_inside (bufIndex_inside hin), whenIdle_busy hb]
  case neg =>
    rw [hostWrite_outside (bufIndex_outside hin)]
    exact writeReg_refused hb (by simpa only [hin, or_false] using h)

theorem hostRead_inside_busy {j : Nat} (hb : s.busy = true) (h : bufIndex s.cfg off = some j) :
    hostRead off s = .ok (0, setBusyAcc s) := by
  simp only [hostRead, h, if_pos hb]

/-- STATUS is the only register that shows the phase. -/
theorem readReg_phase (p : Phase) (h : off ≠ 0x00C) : readReg off { s with phase := p } = readReg off s := by
  simp only [readReg, if_neg h]

end

/-- Settles O14: which of `hostWrite`'s and `hostRead`'s branches BUSY guards. -/
theorem busyRefusesHost : Obligations.BusyRefusesHost := by
  unfold Obligations.BusyRefusesHost
  intro s off v hb ha inBuf
  refine ⟨fun hrefused => ?_, fun hin => ?_, fun hout => ⟨?_, fun hoff => (readReg_phase _ hoff).symm⟩,
    ?_, fun hcmd haddr hlen hstatus hpoll hout => ?_⟩
  · rw [hostAccess_write_aligned ha, hostWrite_refused hb hrefused]
    rfl
  · exact hostAccess_read_aligned ha (hostRead_inside_busy hb (bufIndex_inside hin))
  · exact hostAccess_read_aligned ha (hostRead_outside (bufIndex_outside hout))
  · rintro rfl
    rw [hostAccess_write_aligned ha, hostWrite_outside (bufIndex_outside (by simp)),
      writeReg_status]
    rfl
  · rw [hostAccess_write_aligned ha, hostWrite_outside (bufIndex_outside hout),
      writeReg_ignored hcmd haddr hlen hstatus hpoll]
    rfl

end Sys2Proof.Machine

/-! ## Proofs: DETECT (spec/41_detect.md) -/

namespace Sys2Proof.Machine

open Sys2Proof

/-! ### Identification words and sector counts as numbers (R46 to R48, R201, R210 to R212) -/

theorem toNat_append_byte {n : Nat} (x : BitVec n) (b : Byte) :
    (x ++ b).toNat = 256 * x.toNat + b.toNat := by
  rw [BitVec.toNat_append, ← Nat.shiftLeft_add_eq_or_of_lt b.isLt, Nat.shiftLeft_eq, Nat.mul_comm]

theorem joinId_eq_ofNat (m d c : Byte) :
    joinId m d c = BitVec.ofNat 24 (65536 * m.toNat + 256 * d.toNat + c.toNat) := by
  apply BitVec.eq_of_toNat_eq
  simp only [joinId, toNat_append_byte, BitVec.toNat_ofNat]
  omega

theorem joinLegacyId_toNat (r0 r1 r2 r3 : Byte) :
    (joinLegacyId r0 r1 r2 r3).toNat =
      16777216 * r0.toNat + 65536 * r1.toNat + 256 * r2.toNat + r3.toNat := by
  simp only [joinLegacyId, toNat_append_byte]
  omega

theorem joinLegacyId_eq_ofNat (r0 r1 r2 r3 : Byte) :
    joinLegacyId r0 r1 r2 r3 =
      BitVec.ofNat 32 (16777216 * r0.toNat + 65536 * r1.toNat + 256 * r2.toNat + r3.toNat) := by
  rw [← joinLegacyId_toNat, BitVec.ofNat_toNat, BitVec.setWidth_eq]

theorem satSub_eq_ofNat (a b : Word) : satSub a b = BitVec.ofNat 32 (a.toNat - b.toNat) := by
  unfold satSub
  split <;> bv_omega

theorem oneShl_eq_ofNat (n : Nat) : oneShl n = BitVec.ofNat 32 (2 ^ n) := by
  apply BitVec.eq_of_toNat_eq
  simp [oneShl, Nat.one_shiftLeft]

theorem c1Sectors_eq (cfg : Config) (c : Byte) :
    c1Sectors cfg c =
      (cfg.c1Overrides.lookup c).getD (BitVec.ofNat 32 (2 ^ (c.toNat % 16 + 4))) := by
  unfold c1Sectors
  cases cfg.c1Overrides.lookup c <;> simp [oneShl_eq_ofNat]

/-! ### The tests of R201: the profile of each known triplet -/

section
variable {cfg : Config} {m d c : Byte}

theorem identify_mfrA (h : m = cfg.mfrA) : identify cfg m d c = .found (profileA c) :=
  if_pos h

theorem identify_mfrB (hcfg : cfg.mfrDistinct = true) (h : m = cfg.mfrB) :
    identify cfg m d c = .found (profileB cfg c) := by
  simp only [Config.mfrDistinct, Bool.and_eq_true, decide_eq_true_eq] at hcfg
  obtain ⟨⟨⟨⟨⟨hab, -⟩, -⟩, -⟩, -⟩, -⟩ := hcfg
  subst h
  simp [identify, hab.symm]

theorem identify_mfrC (hcfg : cfg.mfrDistinct = true) (h : m = cfg.mfrC) :
    identify cfg m d c =
      if d = cfg.cExtDev ∧ c = cfg.cExtCap then .found (profileC2 cfg)
      else if d = cfg.cStdDev then .found (profileC1 cfg c)
      else .fallback := by
  simp only [Config.mfrDistinct, Bool.and_eq_true, decide_eq_true_eq] at hcfg
  obtain ⟨⟨⟨⟨⟨-, hac⟩, -⟩, hbc⟩, -⟩, hcd⟩ := hcfg
  subst h
  simp [identify, hac.symm, hbc.symm, hcd]

theorem identify_fallback (hA : m ≠ cfg.mfrA) (hB : m ≠ cfg.mfrB)
    (hC2 : ¬ (m = cfg.mfrC ∧ d = cfg.cExtDev ∧ c = cfg.cExtCap))
    (hC1 : ¬ (m = cfg.mfrC ∧ d = cfg.cStdDev)) (hD : ¬ (m = cfg.mfrD ∧ cfg.dFallback = false)) :
    identify cfg m d c = .fallback := by
  rw [identify, if_neg hA, if_neg hB, if_neg hC2, if_neg hC1, if_neg hD]

end

/-! ### An identification transaction: its sends, then its received bytes (R131, R202, R206) -/

/-- The working registers after these bytes arrived for these slots, in order. -/
def Work.setIds : Work → List IdSlot → List Byte → Work
  | w, slot :: slots, r :: rs => (w.setId slot r).setIds slots rs
  | w, _, _ => w

@[simp] theorem Work.setIds_nil (w : Work) (rs : List Byte) : w.setIds [] rs = w := by
  cases rs <;> rfl

@[simp] theorem Work.setIds_cons (w : Work) (slot : IdSlot) (slots : List IdSlot) (r : Byte)
    (rs : List Byte) : w.setIds (slot :: slots) (r :: rs) = (w.setId slot r).setIds slots rs := rfl

theorem wireStep_recvId {t : Txn} {slot : IdSlot} {rest : List Act} {todo : List Stmt} {s : State}
    (h : s.cs = true) :
    wireStep t (.recvId slot :: rest) todo s = .next
      (s.ran true [.xfer s.cfg.fill (s.flash.answer s.cfg s.cfg.fill).1]
        (s.flash.answer s.cfg s.cfg.fill).2 (.wire t rest todo)
        (s.work.setId slot (s.flash.answer s.cfg s.cfg.fill).1)) :=
  xfer_ran (q := fun _ => .wire t rest todo) (g := fun r w => w.setId slot r) (fun _ _ => rfl) h

/-- The Xfers that receive identification bytes, one step each. -/
theorem run_recvIds {i : Instr} {t : Txn} (hw : StepsWire i t) (slots : List IdSlot)
    (todo : List Stmt) (s : State) (hp : s.phase = .run (.wire t (slots.map .recvId) todo))
    (hc : s.cs = true) :
    runInstr i slots.length s = .next
      (s.ran true
        (List.zipWith .xfer (List.replicate slots.length s.cfg.fill)
          (s.flash.converse s.cfg (List.replicate slots.length s.cfg.fill)).1)
        (s.flash.converse s.cfg (List.replicate slots.length s.cfg.fill)).2 (.wire t [] todo)
        (s.work.setIds slots
          (s.flash.converse s.cfg (List.replicate slots.length s.cfg.fill)).1)) := by
  induction slots generalizing s with
  | nil =>
    have here := State.ran_self hp
    rw [hc] at here
    simpa using here.symm
  | cons slot slots ih =>
    have first : exec i s = _ := (hw s _ _ hp).trans (wireStep_recvId hc)
    rw [List.length_cons, runInstr_step first, ih _ rfl rfl]
    simp [List.replicate_succ]

/-- A whole identification transaction, Select to Deselect. -/
theorem run_idTxn {i : Instr} {t : Txn} (hw : StepsWire i t) {s u : State} {os as rs : List Byte}
    {slots : List IdSlot} {todo : List Stmt}
    (hacts : t.acts u.cfg u.profile u.work = os.map .send ++ slots.map .recvId)
    (hopen : exec i s = beginTxn t todo u) (hc : u.cs = false)
    (hans : u.answers (os ++ List.replicate slots.length u.cfg.fill) = as ++ rs)
    (hlen : rs.length = slots.length) :
    runInstr i (os.length + slots.length + 2) s = .next
      ((u.afterTxn (os ++ List.replicate slots.length u.cfg.fill)).put (.at todo)
        (u.work.setIds slots rs)) := by
  have received : ((u.flash.select.converse u.cfg os).2.converse u.cfg
      (List.replicate slots.length u.cfg.fill)).1 = rs := by
    rw [State.answers, converse_append] at hans
    exact (List.append_inj' hans (by simp [hlen])).2
  have sends := run_sends hw os (slots.map .recvId) todo
    (u.ran true [.sel] u.flash.select (.wire t (os.map .send ++ slots.map .recvId) todo) u.work) rfl rfl
  rw [beginTxn_ran hc, hacts] at hopen
  rw [show os.length + slots.length + 2 = (os.length + (slots.length + 1)) + 1 by omega,
    runInstr_step hopen, runInstr_add sends, runInstr_add (run_recvIds hw slots todo _ rfl rfl),
    run_desel hw rfl rfl]
  refine congrArg Host.Outcome.next (Eq.trans ?_ (afterTxn_ran hc _ (.at todo) _))
  simp [received, State.answers, converse_append, List.zipWith_append]

/-! ### DETECT from its start: LOCKED, or the identification transaction (R201, R202, R219) -/

theorem exec_detect_locked {s : State} (hs : s.atStart) (hl : s.profileLocked = true) :
    exec .detect s = .next (s.completed .locked) := by
  obtain ⟨hp, hc⟩ := hs
  calc exec .detect s = resume (detectProgram s).2 s := runCommand_start hp
    _ = complete .locked s := by simp only [detectProgram, hl, if_true, resume]
    _ = .next (s.completed .locked) := complete_free hc

theorem exec_detect_unlocked {s : State} (hs : s.atStart) (hl : s.profileLocked = false) :
    exec .detect s = beginTxn (rdidTxn s.cfg) [.resolveId] s := by
  calc exec .detect s = resume (detectProgram s).2 s := runCommand_start hs.1
    _ = beginTxn (rdidTxn s.cfg) [.resolveId] s := by simp [detectProgram, hl, resume]

/-- Between transactions DETECT's step is the statements that stand there. -/
theorem exec_detect_at (s : State) (todo : List Stmt) (w : Work) :
    exec .detect (s.put (.at todo) w) = resume todo (s.put (.at todo) w) :=
  stepsTodo_command rfl _ _ rfl

/-- The bytes of the identification transaction (R202). -/
def idBytes (cfg : Config) : List Byte := [cfg.opRdid, cfg.fill, cfg.fill, cfg.fill]

/-- The registers that hold the triplet (R201, R202). -/
def Work.triplet (w : Work) (m d c : Byte) : Work := { w with id0 := m, id1 := d, id2 := c }

/-- The six steps of the identification transaction. -/
theorem run_detect_identify {s : State} {r m d c : Byte} (hs : s.atStart)
    (hl : s.profileLocked = false) (hans : s.answers (idBytes s.cfg) = [r, m, d, c]) :
    runInstr .detect 6 s = .next
      ((s.afterTxn (idBytes s.cfg)).put (.at [.resolveId]) (s.work.triplet m d c)) :=
  run_idTxn (os := [s.cfg.opRdid]) (as := [r]) (rs := [m, d, c]) (slots := [.id0, .id1, .id2])
    (stepsWire_command rfl (rdidTxn s.cfg)) rfl (exec_detect_unlocked hs hl) hs.2 hans rfl

/-- Settles O32: with the lock set DETECT's program is its completion alone. -/
theorem detectLocked : Obligations.DetectLocked := by
  unfold Obligations.DetectLocked
  intro s hs hl
  exact ⟨Work.blank, exec_detect_locked hs hl⟩

/-! ### A known triplet: commit and complete (R203 to R205, R207, R218) -/

theorem exec_detect_found {s : State} {w : Work} {m d c : Byte} {p : Profile} (hc : s.cs = false)
    (h : identify s.cfg m d c = .found p) :
    exec .detect (s.put (.at [.resolveId]) (w.triplet m d c)) = .next
      (commitProfile p false { s.completed .ok with jedecId := joinId m d c }) := by
  simp only [exec_detect_at, resume, resolveId, Work.triplet, State.put_work, State.put_cfg, h]
  exact complete_free hc

theorem run_detect_found {s : State} {r m d c : Byte} {p : Profile} (hs : s.atStart)
    (hl : s.profileLocked = false) (hans : s.answers (idBytes s.cfg) = [r, m, d, c])
    (h : identify s.cfg m d c = .found p) :
    runInstr .detect 7 s = .next
      (commitProfile p false
        { (s.afterTxn (idBytes s.cfg)).completed .ok with jedecId := joinId m d c }) := by
  rw [runInstr_add (n := 1) (run_detect_identify hs hl hans),
    runInstr_step (exec_detect_found (s := s.afterTxn (idBytes s.cfg)) hs.2 h), runInstr_zero]

/-- Settles O33: the triplet passes the test of its family, so DETECT commits that family's profile. -/
theorem detectKnownFamily : Obligations.DetectKnownFamily := by
  unfold Obligations.DetectKnownFamily
  intro s r m d c p hs hl hcfg hans hfamily
  have known : identify s.cfg m d c = .found p := by
    rcases hfamily with ⟨hm, rfl⟩ | ⟨hm, rfl⟩ | ⟨hm, hd, hcap, rfl⟩ | ⟨hm, hext, hd, rfl⟩
    · simp [identify_mfrA hm, profileA, oneShl_eq_ofNat]
    · simp [identify_mfrB hcfg hm, profileB, oneShl_eq_ofNat]
    · rw [identify_mfrC hcfg hm, if_pos ⟨hd, hcap⟩, profileC2]
    · rw [identify_mfrC hcfg hm, if_neg hext, if_pos hd, profileC1, c1Sectors_eq]
  refine ⟨Work.blank, ?_⟩
  rw [run_detect_found hs hl hans known, commitProfile, satSub_eq_ofNat, joinId_eq_ofNat]
  rfl

/-! ### An unrecognized triplet: the fallback transaction and its answer (R206, R214, R215) -/

/-- The fallback's transaction (R206). -/
def lidTxn (cfg : Config) : Txn := { op := cfg.opRdidLegacy, fmt := .lid }

/-- The bytes it sends: the opcode, LEGACY_ID_PREFIX, and FILL for each byte of the answer. -/
def lidBytes (cfg : Config) : List Byte :=
  cfg.opRdidLegacy :: cfg.legacyIdPrefix ++ [cfg.fill, cfg.fill, cfg.fill, cfg.fill]

/-- The registers that hold the fallback's answer (R206). -/
def Work.quad (w : Work) (r0 r1 r2 r3 : Byte) : Work :=
  { w with lid0 := r0, lid1 := r1, lid2 := r2, lid3 := r3 }

theorem exec_detect_fallback {s : State} {w : Work} {m d c : Byte}
    (h : identify s.cfg m d c = .fallback) :
    exec .detect (s.put (.at [.resolveId]) (w.triplet m d c)) =
      beginTxn (lidTxn s.cfg) [.resolveLegacy]
        (State.put { s with jedecId := joinId m d c } (.at [.resolveId]) (w.triplet m d c)) := by
  simp only [exec_detect_at, resume, resolveId, Work.triplet, State.put_work, State.put_cfg, h]
  rfl

/-- The fallback transaction, from the identification transaction's Deselect on. -/
theorem run_detect_fallback {s : State} {w : Work} {m d c r0 r1 r2 r3 : Byte} {rs : List Byte}
    (hc : s.cs = false) (h : identify s.cfg m d c = .fallback)
    (hans : s.answers (lidBytes s.cfg) = rs ++ [r0, r1, r2, r3]) :
    runInstr .detect (s.cfg.legacyIdPrefix.length + 7)
        (s.put (.at [.resolveId]) (w.triplet m d c)) = .next
      (State.put { s.afterTxn (lidBytes s.cfg) with jedecId := joinId m d c }
        (.at [.resolveLegacy]) ((w.triplet m d c).quad r0 r1 r2 r3)) := by
  have run := run_idTxn
    (u := State.put { s with jedecId := joinId m d c } (.at [.resolveId]) (w.triplet m d c))
    (os := s.cfg.opRdidLegacy :: s.cfg.legacyIdPrefix) (as := rs) (rs := [r0, r1, r2, r3])
    (slots := [.lid0, .lid1, .lid2, .lid3])
    (stepsWire_command rfl (lidTxn s.cfg)) rfl (exec_detect_fallback (w := w) h) hc hans rfl
  rwa [List.length_cons, Nat.add_right_comm _ 1, Nat.add_assoc, Nat.add_assoc] at run

theorem exec_detect_legacy {s : State} {w : Work} {r0 r1 r2 r3 : Byte} (hc : s.cs = false) :
    exec .detect (s.put (.at [.resolveLegacy]) (w.quad r0 r1 r2 r3)) = .next
      (commitProfile
        (if joinLegacyId r0 r1 r2 r3 = s.cfg.legacyIdMatch then profileLegacy s.cfg s.profile
         else profileUnknown s.profile)
        (!decide (joinLegacyId r0 r1 r2 r3 = s.cfg.legacyIdMatch))
        { s.completed .ok with legacyId := joinLegacyId r0 r1 r2 r3 }) := by
  simp only [exec_detect_at, resume, resolveLegacy, Work.quad, State.put_work, State.put_cfg]
  by_cases hmatch : joinLegacyId r0 r1 r2 r3 = s.cfg.legacyIdMatch
  case pos =>
    simp only [hmatch, if_true, decide_true, Bool.not_true]
    exact complete_free hc
  case neg =>
    simp only [hmatch, if_false, decide_false, Bool.not_false]
    exact complete_free hc

theorem run_detect_unrecognized {s : State} {r m d c r0 r1 r2 r3 : Byte} {rs : List Byte}
    (hs : s.atStart) (hl : s.profileLocked = false)
    (hans : s.answers (idBytes s.cfg) = [r, m, d, c]) (h : identify s.cfg m d c = .fallback)
    (hlegacy : (s.afterTxn (idBytes s.cfg)).answers (lidBytes s.cfg) = rs ++ [r0, r1, r2, r3]) :
    runInstr .detect (s.cfg.legacyIdPrefix.length + 14) s = .next
      (commitProfile
        (if joinLegacyId r0 r1 r2 r3 = s.cfg.legacyIdMatch then profileLegacy s.cfg s.profile
         else profileUnknown s.profile)
        (!decide (joinLegacyId r0 r1 r2 r3 = s.cfg.legacyIdMatch))
        { ((s.afterTxn (idBytes s.cfg)).afterTxn (lidBytes s.cfg)).completed .ok with
          jedecId := joinId m d c, legacyId := joinLegacyId r0 r1 r2 r3 }) := by
  have fallback : runInstr .detect (s.cfg.legacyIdPrefix.length + 7) _ = _ :=
    run_detect_fallback (s := s.afterTxn (idBytes s.cfg)) (w := s.work) hs.2 h hlegacy
  have resolved := exec_detect_legacy (w := s.work.triplet m d c) (r0 := r0) (r1 := r1) (r2 := r2)
    (r3 := r3) (s := { (s.afterTxn (idBytes s.cfg)).afterTxn (lidBytes s.cfg) with
      jedecId := joinId m d c }) hs.2
  rw [show s.cfg.legacyIdPrefix.length + 14 = 6 + ((s.cfg.legacyIdPrefix.length + 7) + 1) by omega,
    runInstr_add (run_detect_identify hs hl hans), runInstr_add fallback]
  exact runInstr_step resolved

/-- Settles O35: the identification transaction, the fallback's, and the step that compares its answer. -/
theorem detectFallback : Obligations.DetectFallback := by
  unfold Obligations.DetectFallback
  intro s r m d c r0 r1 r2 r3 rs hs hl _ _ id hans hA hB hC2 hC1 hD hlegacy
  have same : joinLegacyId r0 r1 r2 r3 = s.cfg.legacyIdMatch ↔ id = s.cfg.legacyIdMatch.toNat := by
    rw [← BitVec.toNat_inj, joinLegacyId_toNat]
  have run := run_detect_unrecognized hs hl hans (identify_fallback hA hB hC2 hC1 hD) hlegacy
  refine ⟨_, Work.blank, rfl, run.trans ?_⟩
  simp only [commitProfile, satSub_eq_ofNat, joinId_eq_ofNat, joinLegacyId_eq_ofNat, ← same]
  rfl

end Sys2Proof.Machine

/-! ## Proofs: SET_PROTECT (spec/42_frame_protect.md) -/

namespace Sys2Proof.Machine

open Sys2Proof

/-! ### A command between its transactions: the next one of sends alone, or its completion (R164, R172) -/

/-- A transaction of sends alone that stands next in a command's pseudocode, Select to Deselect. -/
theorem run_txn_at {i : Instr} (hi : i.isCommand = true) {t : Txn} {s : State} {os : List Byte}
    {todo : List Stmt} (hacts : t.acts s.cfg s.profile s.work = os.map .send) (hc : s.cs = false) :
    runInstr i (os.length + 2) (s.withPos (.at (.txn t :: todo))) = .next
      ((s.afterTxn os).withPos (.at todo)) :=
  run_txn (s := s.withPos _) (stepsWire_command hi t) hacts
    (stepsTodo_command hi _ (.txn t :: todo) rfl) hc

theorem exec_complete_at {i : Instr} (hi : i.isCommand = true) {s : State} {e : ErrCode}
    {todo : List Stmt} (hc : s.cs = false) :
    exec i (s.withPos (.at (.complete e :: todo))) = .next (s.completed e) :=
  (stepsTodo_command hi _ (.complete e :: todo) rfl).trans (complete_free (s := s.withPos _) hc)

/-! ### SET_PROTECT from its start: PMASK = 0, or the two transactions (R245) -/

theorem exec_setProtect_no_mask {s : State} {arg : Bool} (hs : s.atStart)
    (hm : s.profile.pmask = 0) : exec (.setProtect arg) s = .next (s.completed .ok) := by
  obtain ⟨hp, hc⟩ := hs
  calc exec (.setProtect arg) s = resume (protectProgram arg s).2 s := runCommand_start hp
    _ = complete .ok s := by simp only [protectProgram, if_pos hm, resume]
    _ = .next (s.completed .ok) := complete_free hc

theorem exec_setProtect_masked {s : State} {arg : Bool} (hs : s.atStart)
    (hm : s.profile.pmask ≠ 0) :
    exec (.setProtect arg) s =
      beginTxn (srEnTxn s.profile) [.txn (wrsrTxn s.profile arg), .complete .ok] s := by
  calc exec (.setProtect arg) s = resume (protectProgram arg s).2 s := runCommand_start hs.1
    _ = beginTxn (srEnTxn s.profile) [.txn (wrsrTxn s.profile arg), .complete .ok] s := by
      simp only [protectProgram, if_neg hm, resume]

/-- The eight steps with a mask: three of the unlock, four of the status write, one of the completion. -/
theorem run_setProtect_masked {s : State} {arg : Bool} (hs : s.atStart)
    (hm : s.profile.pmask ≠ 0) :
    runInstr (.setProtect arg) 8 s = .next
      (((s.afterTxn [s.profile.srEn]).afterTxn [0x01, protectByte s.profile arg]).completed .ok) := by
  have unlock : runInstr (.setProtect arg) 3 s = .next
      ((s.afterTxn [s.profile.srEn]).withPos (.at [.txn (wrsrTxn s.profile arg), .complete .ok])) :=
    run_txn (os := [s.profile.srEn]) (stepsWire_command rfl _) rfl (exec_setProtect_masked hs hm) hs.2
  have write : runInstr (.setProtect arg) 4 _ = _ :=
    run_txn_at rfl (s := s.afterTxn [s.profile.srEn]) (t := wrsrTxn s.profile arg)
      (os := [0x01, protectByte s.profile arg]) (todo := [.complete .ok]) rfl hs.2
  rw [runInstr_add (n := 5) unlock, runInstr_add (n := 1) write]
  exact runInstr_step (exec_complete_at rfl hs.2)

/-- Settles O36: without a mask the program is its completion alone, with one it is the unlock, the raw
status byte and the completion. -/
theorem setProtectRun : Obligations.SetProtectRun := by
  unfold Obligations.SetProtectRun
  refine ⟨rfl, rfl, fun s arg hs => ⟨fun hm => ?_, fun hm => ?_⟩⟩
  · exact ⟨Work.blank, exec_setProtect_no_mask hs hm⟩
  · exact ⟨Work.blank, run_setProtect_masked hs hm⟩

end Sys2Proof.Machine

/-! ## Proofs: WRITE, and the length checks of WRITE, READ and READ_DELIM (spec/45_program.md) -/

namespace Sys2Proof.Machine

open Sys2Proof

/-! ### The length checks: a program that is its completion alone (R315, R401) -/

theorem runCommand_completes {prog : Program} {s : State} {e : ErrCode} (hs : s.atStart)
    (h : prog s = (s.work, [.complete e])) : runCommand prog s = .next (s.completed e) := by
  obtain ⟨hp, hc⟩ := hs
  rw [runCommand_start hp, h]
  exact complete_free hc

theorem writeProgram_too_long {s : State} (h : s.cfg.bufBytes < s.work.opLen.toNat) :
    writeProgram s = (s.work, [.complete .len]) := if_pos h

theorem writeProgram_empty {s : State} (h : s.work.opLen = 0) :
    writeProgram s = (s.work, [.complete .ok]) := by
  rw [writeProgram, if_neg (by simp [h]), if_pos h]

theorem readProgram_too_long {s : State} (delim : Bool) (last : Stmt)
    (h : s.cfg.bufBytes < s.work.opLen.toNat) :
    readProgram delim last s = (s.work, [.complete .len]) := if_pos h

theorem readProgram_empty {s : State} (delim : Bool) (last : Stmt) (h : s.work.opLen = 0) :
    readProgram delim last s = (s.work, [.complete .ok]) := by
  rw [readProgram, if_neg (by simp [h]), if_pos h]

/-- A program whose first tests are the length checks, in this order. -/
theorem runCommand_lengthChecks {prog : Program} {s : State} (hs : s.atStart)
    (hlong : s.cfg.bufBytes < s.work.opLen.toNat → prog s = (s.work, [.complete .len]))
    (hempty : s.work.opLen = 0 → prog s = (s.work, [.complete .ok])) :
    (s.cfg.bufBytes < s.work.opLen.toNat →
      ∃ work, runCommand prog s = .next { s.completed .len with work := work }) ∧
    (s.work.opLen = 0 → ∃ work, runCommand prog s = .next { s.completed .ok with work := work }) :=
  ⟨fun h => ⟨Work.blank, runCommand_completes hs (hlong h)⟩,
    fun h => ⟨Work.blank, runCommand_completes hs (hempty h)⟩⟩

/-- Settles O45: the length tests come first in each of the three programs and leave only a completion. -/
theorem lengthChecks : Obligations.LengthChecks := by
  unfold Obligations.LengthChecks
  rintro s i hs (rfl | rfl | rfl)
  case inl => exact runCommand_lengthChecks hs writeProgram_too_long writeProgram_empty
  case inr.inl =>
    exact runCommand_lengthChecks hs (readProgram_too_long false .finishRead)
      (readProgram_empty false .finishRead)
  case inr.inr =>
    exact runCommand_lengthChecks hs (readProgram_too_long true .finishDelim)
      (readProgram_empty true .finishDelim)

/-! ### Where a command stands between transactions: its statements, not its position (R164) -/

/-- What the statements do does not depend on the position they are resumed from. -/
theorem resume_phase (todo : List Stmt) (s : State) (q : Phase) :
    resume todo { s with phase := q } = resume todo s := by
  induction todo generalizing s with
  | nil => rfl
  | cons st todo ih =>
    cases st with
    | pollEnd =>
      simp only [resume]
      split
      · exact ih s
      · rfl
    | aaiAdvance =>
      by_cases h : (advance s).work.n = 0
      case pos => exact (if_pos h).trans ((ih (advance s)).trans (if_pos h).symm)
      case neg => exact (if_neg h).trans (Eq.symm (if_neg h))
    | _ => rfl

/-- A command whose next step resumes these statements runs on from them. -/
theorem runInstr_resume {i : Instr} (hi : i.isCommand = true) {u : State} {todo : List Stmt}
    {w : Work} (h : exec i u = resume todo { u with work := w }) (n : Nat) :
    runInstr i (n + 1) u = runInstr i (n + 1) (u.put (.at todo) w) := by
  have there : exec i (u.put (.at todo) w) = resume todo { u with work := w } :=
    (stepsTodo_command hi _ _ rfl).trans (resume_phase todo { u with work := w } _)
  rw [runInstr_succ, runInstr_succ, h, there]

/-! ### A whole transaction: its sends, then bytes that come from BUF (R131) -/

/-- The last acts of an open transaction send these bytes where BUF is m, deselect, and take the working
registers from w to v. -/
def TailRuns (m : Memory) (acts : List Act) (bytes : List Byte) (w v : Work) : Prop :=
  ∀ (i : Instr) (t : Txn) (todo : List Stmt) (s : State), StepsWire i t →
    s.phase = .run (.wire t acts todo) → s.cs = true → s.buf = m → s.work = w →
    runInstr i (bytes.length + 1) s = .next
      (s.ran false (List.zipWith .xfer bytes (s.flash.converse s.cfg bytes).1 ++ [.desel])
        ((s.flash.converse s.cfg bytes).2.deselect s.cfg) (.at todo) v)

/-- With no act left there is the Deselect. -/
theorem tailRuns_nil (m : Memory) (w : Work) : TailRuns m [] [] w w := by
  intro i t todo s hw hp hc _ hwork
  rw [← hwork]
  exact run_desel hw hp hc

/-- A transaction, Select to Deselect: the bytes fixed at its Select, then the tail. -/
theorem run_txnTail {i : Instr} {t : Txn} (hw : StepsWire i t) {s : State} {head bytes : List Byte}
    {acts : List Act} {todo : List Stmt} {v : Work}
    (hacts : t.acts s.cfg s.profile s.work = head.map .send ++ acts)
    (htail : TailRuns s.buf acts bytes s.work v) (hopen : exec i s = beginTxn t todo s)
    (hc : s.cs = false) :
    runInstr i ((head ++ bytes).length + 2) s = .next
      ((s.afterTxn (head ++ bytes)).put (.at todo) v) := by
  have sends := run_sends hw head acts todo
    (s.ran true [.sel] s.flash.select (.wire t (head.map .send ++ acts) todo) s.work) rfl rfl
  have tail := htail i t todo
    (s.ran true (.sel :: List.zipWith .xfer head (s.flash.select.converse s.cfg head).1)
      (s.flash.select.converse s.cfg head).2 (.wire t acts todo) s.work) hw rfl rfl rfl rfl
  rw [beginTxn_ran hc, hacts] at hopen
  rw [State.ran_ran] at sends
  rw [List.length_append, show head.length + bytes.length + 2 = (head.length + (bytes.length + 1)) + 1
    by omega, runInstr_step hopen, runInstr_add sends]
  refine tail.trans (congrArg Host.Outcome.next (Eq.trans ?_ (afterTxn_ran hc _ (.at todo) v)))
  simp [State.answers, converse_append, List.zipWith_append]

/-- a2 a1 a0 as the model cuts them are the quotients of R84 (a). -/
theorem addrBytes_eq_nat (a : Addr) : addrBytes a = addrBytesNat a := by
  simp only [addrBytes, addrBytesNat, List.cons.injEq, and_true]
  refine ⟨?_, ?_, ?_⟩ <;> apply BitVec.eq_of_toNat_eq <;> simp [Nat.shiftRight_eq_div_pow]

theorem frameActs_eq_sends (op : Byte) (a : Addr) :
    frameActs op a = (op :: addrBytesNat a).map .send := by
  rw [frameActs, addrBytes_eq_nat, List.map_cons]

theorem complement_eq_sub (b : Byte) : complement b = 0xFF - b := by
  unfold complement
  bv_omega

/-! ### The data bytes of a program transaction (R300, R305) -/

theorem wireStep_sendBuf {t : Txn} {j m : Nat} {rest : List Act} {todo : List Stmt} {s : State}
    {b : Byte} (hb : s.buf.read j = some b) (hc : s.cs = true) :
    wireStep t (.sendBuf j m :: rest) todo s = .next
      (s.ran true [.xfer (complement b) (s.flash.answer s.cfg (complement b)).1]
        (s.flash.answer s.cfg (complement b)).2
        (.wire t (if m ≤ 1 then rest else .sendBuf (j + 1) (m - 1) :: rest) todo) s.work) := by
  simp only [wireStep, hb]
  exact xfer_ran (q := fun _ => .wire t _ todo) (g := fun _ w => w) (fun _ _ => rfl) hc

/-- BUF holds these bytes from index k on. -/
def Memory.holdsFrom (m : Memory) (k : Nat) (data : List Byte) : Prop :=
  ∀ j b, data[j]? = some b → m.read (k + j) = some b

theorem Memory.holdsFrom_cons {m : Memory} {k : Nat} {b : Byte} {data : List Byte} :
    m.holdsFrom k (b :: data) ↔ m.read k = some b ∧ m.holdsFrom (k + 1) data := by
  constructor
  · intro h
    refine ⟨h 0 b rfl, fun j c hc => ?_⟩
    rw [Nat.add_assoc, Nat.add_comm 1]
    exact h (j + 1) c hc
  · rintro ⟨hb, hd⟩ j c hc
    cases j with
    | zero => exact Option.some.inj hc ▸ hb
    | succ j =>
      rw [← Nat.succ_add_eq_add_succ]
      exact hd j c hc

theorem bufHolds_iff_holdsFrom {m : Memory} {data : List Byte} :
    bufHolds m data ↔ m.holdsFrom 0 data := by
  simp [bufHolds, Memory.holdsFrom]

/-- The data bytes of T_PP, complemented, and the Deselect. -/
theorem tailRuns_sendBuf {m : Memory} (w : Work) {data : List Byte} (hne : data ≠ []) {k : Nat}
    (h : m.holdsFrom k data) :
    TailRuns m [.sendBuf k data.length] (data.map fun b => 0xFF - b) w w := by
  induction data generalizing k with
  | nil => exact absurd rfl hne
  | cons b data ih =>
    obtain ⟨hb, hrest⟩ := Memory.holdsFrom_cons.1 h
    intro i t todo s hw hp hc hbuf hwork
    have first := (hw s _ _ hp).trans (wireStep_sendBuf (by rw [hbuf]; exact hb) hc)
    rw [complement_eq_sub] at first
    have tail : TailRuns m
        (if (b :: data).length ≤ 1 then [] else [.sendBuf (k + 1) ((b :: data).length - 1)])
        (data.map fun b => 0xFF - b) w w := by
      cases data with
      | nil => exact tailRuns_nil m w
      | cons c data => simpa using ih (by simp) hrest
    rw [List.map_cons, List.length_cons, runInstr_step first]
    refine (tail i t todo (s.ran true _ _ _ _) hw rfl rfl hbuf hwork).trans ?_
    simp

/-! ### The data bytes of a chunk (R306, R308) -/

/-- The working registers of SendChunk: n counts the payload that is left, i is its index in BUF. -/
structure Work.Streams (w : Work) (m : Memory) (data : List Byte) : Prop where
  left : w.n.toNat = data.length
  fits : w.i.toNat + data.length < 2 ^ 16
  held : m.holdsFrom w.i.toNat data

section
variable {w : Work} {m : Memory} {b : Byte} {data : List Byte}

theorem Work.Streams.n_eq_zero_iff (h : w.Streams m data) : w.n = 0 ↔ data = [] := by
  rw [← BitVec.toNat_inj, h.left]
  exact List.length_eq_zero_iff

theorem Work.Streams.n_eq_one_iff (h : w.Streams m (b :: data)) : w.n = 1 ↔ data = [] := by
  rw [← BitVec.toNat_inj, h.left]
  simp

theorem Work.Streams.head (h : w.Streams m (b :: data)) : m.read w.i.toNat = some b :=
  (Memory.holdsFrom_cons.1 h.held).1

/-- After a data byte the registers are at the rest of the payload. -/
theorem Work.Streams.sent (h : w.Streams m (b :: data)) : w.sent.Streams m data := by
  obtain ⟨left, fits, held⟩ := h
  rw [List.length_cons] at left fits
  have index : w.sent.i.toNat = w.i.toNat + 1 := by simp only [Work.sent]; bv_omega
  refine ⟨?_, by omega, index ▸ (Memory.holdsFrom_cons.1 held).2⟩
  simp only [Work.sent]
  bv_omega

theorem Work.Streams.of_sameArgs {v : Work} (h : w.Streams m data) (hv : v.sameArgs w) :
    v.Streams m data := by
  obtain ⟨-, -, -, hn, hi⟩ := hv
  exact ⟨hn ▸ h.left, hi ▸ h.fits, hi ▸ h.held⟩

end

theorem tailRuns_chunkOne {w : Work} {m : Memory} {b : Byte} {data : List Byte}
    (h : w.Streams m (b :: data)) : TailRuns m [.chunkFirst false] [0xFF - b] w w.sent := by
  rintro i t todo s hw hp hc rfl rfl
  rw [← complement_eq_sub]
  exact run_chunkOne hw hp hc h.head

theorem tailRuns_chunkPad {w : Work} {m : Memory} {b : Byte} (h : w.Streams m [b]) :
    TailRuns m [.chunkFirst true] [0xFF - b, 0xFF] w w.sent := by
  rintro i t todo s hw hp hc rfl rfl
  rw [← complement_eq_sub]
  exact run_chunkPad hw hp hc (h.n_eq_one_iff.2 rfl) h.head

theorem tailRuns_chunkTwo {w : Work} {m : Memory} {b c : Byte} {data : List Byte}
    (h : w.Streams m (b :: c :: data)) :
    TailRuns m [.chunkFirst true] [0xFF - b, 0xFF - c] w w.sent.sent := by
  rintro i t todo s hw hp hc rfl rfl
  rw [← complement_eq_sub, ← complement_eq_sub]
  exact run_chunkTwo hw hp hc (fun hn => List.cons_ne_nil c data (h.n_eq_one_iff.1 hn)) h.head
    h.sent.head

/-- The next chunk of a payload with something left: the bytes R306 and R308 give it, and the registers at
what is left after it. -/
theorem exists_chunk {w : Work} {m : Memory} {data : List Byte} (u : WriteUnit)
    (h : w.Streams m data) (hne : data ≠ []) :
    ∃ bytes rest v, chunksOf u data = bytes :: chunksOf u rest ∧ rest.length < data.length ∧
      v.Streams m rest ∧ TailRuns m (chunkActs u) bytes w v := by
  match u, data, hne with
  | .one, b :: data, _ =>
    exact ⟨_, data, _, rfl, Nat.lt_succ_self _, h.sent, tailRuns_chunkOne h⟩
  | .two, [b], _ =>
    exact ⟨_, [], _, rfl, Nat.lt_succ_self _, h.sent, tailRuns_chunkPad h⟩
  | .two, b :: c :: data, _ =>
    exact ⟨_, data, _, rfl, Nat.lt_add_right 1 (Nat.lt_succ_self _), h.sent.sent, tailRuns_chunkTwo h⟩

/-! ### The statements of a command and the pieces they perform (R131, R164) -/

/-- A wait is about the device and the bound, not about the position it starts from. -/
theorem put_waits (s : State) (p : Pos) (w : Work) (x : Wait) :
    (s.put p w).waits x ↔ s.waits x := by
  simp [State.waits, State.busyFor, State.busyBurst, State.readyAt]

/-- Parameters, profile and BUF are those of o: what the pseudocode of a program or erase command reads and
no step of it changes. -/
structure State.SetUpAs (s o : State) : Prop where
  cfg : s.cfg = o.cfg
  profile : s.profile = o.profile
  buf : s.buf = o.buf

theorem State.SetUpAs.after {s o : State} (h : s.SetUpAs o) (q : Piece) : (q.after s).SetUpAs o := by
  obtain ⟨hcfg, hprofile, hbuf⟩ := h
  cases q with
  | txn os => exact ⟨hcfg, hprofile, hbuf⟩
  | wait x =>
    exact ⟨(State.afterWait_cfg s x).trans hcfg, (State.afterWait_profile s x).trans hprofile,
      (State.afterWait_buf s x).trans hbuf⟩

/-- These statements, with these working registers, perform these pieces and complete with OK. -/
inductive Script (o : State) : List Stmt → Work → List Piece → Prop where
  /-- the completion -/
  | complete (w : Work) (rest : List Stmt) : Script o (.complete .ok :: rest) w []
  /-- a transaction: the bytes fixed at its Select, then the tail -/
  | txn {t : Txn} {head bytes : List Byte} {acts : List Act} {todo : List Stmt} {w v : Work}
      {ps : List Piece} (hacts : t.acts o.cfg o.profile w = head.map .send ++ acts)
      (htail : TailRuns o.buf acts bytes w v) (h : Script o todo v ps) :
      Script o (.txn t :: todo) w (.txn (head ++ bytes) :: ps)
  /-- a wait, whatever it leaves in the poller's registers -/
  | wait (x : Wait) {todo : List Stmt} {w : Work} {ps : List Piece}
      (h : ∀ v : Work, v.sameArgs w → Script o todo v ps) :
      Script o (.waitReady :: todo) w (.wait x :: ps)
  /-- a statement that only decides how the pseudocode goes on -/
  | goto {todo todo' : List Stmt} {w w' : Work} {ps : List Piece}
      (hgoto : ∀ s : State, s.SetUpAs o →
        resume todo { s with work := w } = resume todo' { s with work := w' })
      (h : Script o todo' w' ps) : Script o todo w ps

/-- A transaction of one fixed byte string. -/
theorem Script.sends {o : State} {t : Txn} {os : List Byte} {todo : List Stmt} {w : Work}
    {ps : List Piece} (hacts : t.acts o.cfg o.profile w = os.map .send) (h : Script o todo w ps) :
    Script o (.txn t :: todo) w (.txn os :: ps) := by
  have script := Script.txn (head := os) (by rw [hacts, List.append_nil]) (tailRuns_nil o.buf w) h
  rwa [List.append_nil] at script

/-- The pieces of a script run as it says: one step a bus event, and one of the completion. -/
theorem Script.run {i : Instr} (hi : i.isCommand = true) {o : State} {todo : List Stmt} {w : Work}
    {ps : List Piece} (script : Script o todo w ps) {s : State} (ho : s.SetUpAs o)
    (hc : s.cs = false) (hold : piecesHold ps s) :
    runInstr i (pieceSteps ps + 1) (s.put (.at todo) w) = .next ((afterPieces ps s).completed .ok) := by
  induction script generalizing s with
  | complete w rest =>
    exact runInstr_step (exec_complete_at hi (s := { s with work := w }) hc)
  | @txn t head bytes acts todo w v ps hacts htail _ ih =>
    rw [← ho.cfg, ← ho.profile] at hacts
    rw [← ho.buf] at htail
    have sent := run_txnTail (s := s.put (.at (.txn t :: todo)) w) (stepsWire_command hi t) hacts htail
      (stepsTodo_command hi _ (.txn t :: todo) rfl) hc
    rw [State.put_afterTxn, State.put_put] at sent
    rw [pieceSteps, Piece.steps, Nat.add_assoc, runInstr_add sent]
    exact ih (ho.after (.txn (head ++ bytes))) hc hold.2
  | @wait x todo w ps _ ih =>
    obtain ⟨ready, rest⟩ := hold
    obtain ⟨v, waited, hv, hready⟩ := run_wait (stepsWire_command hi rdsrTxn) (stepsTodo_command hi)
      (s := s.put (.at (.waitReady :: todo)) w) (x := x) rfl hc ((put_waits s _ w x).2 ready)
    have onward : exec i ((s.afterWait x).put (.at (.pollEnd :: todo)) v) =
        resume todo ((s.afterWait x).put (.at (.pollEnd :: todo)) v) :=
      (stepsTodo_command hi _ (.pollEnd :: todo) rfl).trans (if_pos hready)
    rw [State.put_afterWait, State.put_put] at waited
    rw [pieceSteps, Piece.steps, Nat.add_assoc, runInstr_add waited, runInstr_resume hi onward]
    exact ih v hv (ho.after (.wait x)) ((State.afterWait_cs s x).trans hc) rest
  | @goto todo todo' w w' ps hgoto _ ih =>
    have jump : exec i (s.put (.at todo) w) =
        resume todo' { s.put (.at todo) w with work := w' } :=
      (stepsTodo_command hi _ _ rfl).trans (hgoto (s.put (.at todo) w) ⟨ho.cfg, ho.profile, ho.buf⟩)
    rw [runInstr_resume hi jump]
    exact ih ho hc hold

/-- A command from its start performs the script of its program. -/
theorem run_command_script {i : Instr} (hi : i.isCommand = true) {s : State} {todo : List Stmt}
    {w : Work} {ps : List Piece} (hs : s.atStart) (hstart : exec i s = resume todo { s with work := w })
    (script : Script s todo w ps) (hold : piecesHold ps s) :
    runInstr i (pieceSteps ps + 1) s = .next ((afterPieces ps s).completed .ok) := by
  rw [runInstr_resume hi hstart]
  exact script.run hi ⟨rfl, rfl, rfl⟩ hs.2 hold

/-! ### How ProgramAAI goes on after its pre-step and after a chunk (R306, R311) -/

theorem resume_aaiLoop_done {s : State} (rest : List Stmt) (h : s.work.n = 0) :
    resume (.aaiLoop :: rest) s = resume (.txn (wrdiTxn s.cfg) :: rest) s := if_pos h

theorem resume_aaiLoop_more {s : State} (rest : List Stmt) (h : s.work.n ≠ 0) :
    resume (.aaiLoop :: rest) s =
      resume (.txn (aaiNextTxn s.profile) :: .waitReady :: .aaiLoop :: rest) s := if_neg h

/-- The working registers after the odd-address pre-step (R306). -/
def Work.advanced (w : Work) : Work := { w with a := w.a + 1, i := 1, n := w.n - 1 }

theorem resume_aaiAdvance_done {s : State} (rest : List Stmt) (h : s.work.advanced.n = 0) :
    resume (.aaiAdvance :: rest) s = resume rest { s with work := s.work.advanced } := if_pos h

theorem resume_aaiAdvance_more {s : State} (rest : List Stmt) (h : s.work.advanced.n ≠ 0) :
    resume (.aaiAdvance :: rest) s =
      resume (.txn (wrenTxn s.cfg) :: chunkStmts s.profile ++ rest)
        { s with work := s.work.advanced } := if_neg h

/-- The pre-step's byte is the first of the payload. -/
theorem Work.Streams.advanced {w : Work} {m : Memory} {b : Byte} {data : List Byte} (hi : w.i = 0)
    (h : w.Streams m (b :: data)) : w.advanced.Streams m data := by
  have index : w.advanced.i = w.sent.i := by simp [Work.advanced, Work.sent, hi]
  obtain ⟨left, fits, held⟩ := h.sent
  exact ⟨left, index ▸ fits, index ▸ held⟩

/-! ### ProgramDirect and ProgramAAI as scripts (R305 to R308, R311, R312) -/

/-- ProgramDirect of a payload that stands at the start of BUF. -/
theorem script_programDirect {o : State} (a : Addr) {data : List Byte} (hne : data ≠ [])
    (hbuf : bufHolds o.buf data) (x : Wait) {rest : List Stmt} {w : Work} {ps : List Piece}
    (h : ∀ v : Work, v.sameArgs w → Script o rest v ps) :
    Script o (programDirect o.cfg a 0 data.length ++ rest) w (directPieces o.cfg a data x ++ ps) := by
  have acts : (ppTxn a 0 data.length).acts o.cfg o.profile w =
      ((0x02 : Byte) :: addrBytesNat a).map .send ++ [.sendBuf 0 data.length] :=
    congrArg (· ++ _) (frameActs_eq_sends 0x02 a)
  refine .sends (os := [o.cfg.opWren]) rfl (.txn acts (tailRuns_sendBuf w hne
    (bufHolds_iff_holdsFrom.1 hbuf)) (.wait x fun v hv => ?_))
  exact .sends (os := [o.cfg.opWrdi]) rfl (h v hv)

/-- The chunks after the first: while something is left, a chunk without address and its wait; then the
write-disable. -/
theorem script_aaiLoop {o : State} (x : Nat → Wait) {data : List Byte} {w : Work} (k : Nat)
    (h : w.Streams o.buf data) :
    Script o [.aaiLoop, .complete .ok] w
      (laterPieces o.profile.wop x k (chunksOf o.profile.unit data) ++ [.txn [o.cfg.opWrdi]]) := by
  induction hlen : data.length using Nat.strongRecOn generalizing data w k with
  | _ len ih =>
    by_cases hne : data = []
    case pos =>
      subst hne
      have done : Script o [.txn (wrdiTxn o.cfg), .complete .ok] w [.txn [o.cfg.opWrdi]] :=
        .sends (os := [o.cfg.opWrdi]) rfl (.complete w [])
      rw [chunksOf, laterPieces]
      refine .goto (fun s hs => ?_) done
      rw [← hs.cfg]
      exact resume_aaiLoop_done _ (h.n_eq_zero_iff.2 rfl)
    case neg =>
      obtain ⟨bytes, rest, v, hchunks, hshorter, hv, htail⟩ := exists_chunk o.profile.unit h hne
      have chunk : Script o [.txn (aaiNextTxn o.profile), .waitReady, .aaiLoop, .complete .ok] w _ :=
        .txn (head := [o.profile.wop]) rfl htail (.wait (x k) fun u hu =>
          ih rest.length (hlen ▸ hshorter) (k + 1) (hv.of_sameArgs hu) rfl)
      rw [hchunks, laterPieces]
      refine .goto (fun s hs => ?_) chunk
      rw [← hs.profile]
      exact resume_aaiLoop_more _ (mt h.n_eq_zero_iff.1 hne)

/-- ProgramAAI from its write-enable on, with something to program. -/
theorem script_stream {o : State} (x : Nat → Wait) {data : List Byte} {w : Work} (hne : data ≠ [])
    (h : w.Streams o.buf data) :
    Script o (.txn (wrenTxn o.cfg) :: chunkStmts o.profile ++ [.complete .ok]) w
      (streamPieces o.cfg o.profile w.a data x) := by
  obtain ⟨bytes, rest, v, hchunks, -, hv, htail⟩ := exists_chunk o.profile.unit h hne
  have acts : (aaiFirstTxn o.profile).acts o.cfg o.profile w =
      (o.profile.wop :: addrBytesNat w.a).map .send ++ chunkActs o.profile.unit :=
    congrArg (· ++ _) (frameActs_eq_sends o.profile.wop w.a)
  rw [streamPieces, hchunks]
  exact .sends (os := [o.cfg.opWren]) rfl (.txn acts htail (.wait (x 0) fun u hu =>
    script_aaiLoop x 1 (hv.of_sameArgs hu)))

/-- After the odd-address pre-step: the stream from the next address, or nothing if that was all (R311). -/
theorem script_aaiAdvance {o : State} (x : Nat → Wait) {b : Byte} {data : List Byte} {w : Work}
    (hi : w.i = 0) (h : w.Streams o.buf (b :: data)) :
    Script o [.aaiAdvance, .complete .ok] w (streamPieces o.cfg o.profile (w.a + 1) data x) := by
  have hv := h.advanced hi
  by_cases hne : data = []
  case pos =>
    subst hne
    have nothing : streamPieces o.cfg o.profile (w.a + 1) [] x = [] := by
      rw [streamPieces, chunksOf]
    rw [nothing]
    exact .goto (fun s _ => resume_aaiAdvance_done _ (hv.n_eq_zero_iff.2 rfl))
      (.complete w.advanced [])
  case neg =>
    refine .goto (fun s hs => ?_) (script_stream (w := w.advanced) x hne hv)
    rw [← hs.cfg, ← hs.profile]
    exact resume_aaiAdvance_more _ (mt hv.n_eq_zero_iff.1 hne)

theorem oddStart_iff {p : Profile} {a : Addr} :
    oddStart p a = true ↔ p.unit = .two ∧ a.toNat % 2 = 1 := by
  simp [oddStart, BitVec.getLsbD, Nat.testBit_zero]

/-- ProgramAAI's pre-step at an odd address, and what follows it. -/
theorem script_preStep {o : State} (x0 : Wait) (x : Nat → Wait) {data : List Byte} {w : Work}
    (hne : data ≠ []) (hi : w.i = 0) (h : w.Streams o.buf data) :
    Script o (programDirect o.cfg w.a 0 1 ++ [.aaiAdvance, .complete .ok]) w
      (directPieces o.cfg w.a (data.take 1) x0 ++
        streamPieces o.cfg o.profile (w.a + 1) (data.drop 1) x) := by
  obtain ⟨b, data, rfl⟩ := List.exists_cons_of_ne_nil hne
  have first : bufHolds o.buf [b] := by
    rw [bufHolds_iff_holdsFrom, Memory.holdsFrom_cons]
    refine ⟨?_, fun j c hc => by simp at hc⟩
    simpa [hi] using h.head
  refine script_programDirect w.a (List.cons_ne_nil b []) first x0 fun v hv => ?_
  have streams := h.of_sameArgs hv
  obtain ⟨-, -, ha, -, hvi⟩ := hv
  rw [← ha]
  exact script_aaiAdvance x (hvi.trans hi) streams

/-- ProgramAAI of a payload that stands at the start of BUF. -/
theorem script_programAai {o : State} (x0 : Wait) (x : Nat → Wait) {data : List Byte} {w : Work}
    (hne : data ≠ []) (hi : w.i = 0) (h : w.Streams o.buf data) :
    Script o (programAai o.cfg o.profile w.a ++ [.complete .ok]) w
      (aaiPieces o.cfg o.profile w.a data x0 x) := by
  have body : Script o
      ((if oddStart o.profile w.a then programDirect o.cfg w.a 0 1 ++ [.aaiAdvance]
        else .txn (wrenTxn o.cfg) :: chunkStmts o.profile) ++ [.complete .ok]) w
      (if o.profile.unit = .two ∧ w.a.toNat % 2 = 1 then
        directPieces o.cfg w.a (data.take 1) x0 ++
          streamPieces o.cfg o.profile (w.a + 1) (data.drop 1) x
       else streamPieces o.cfg o.profile w.a data x) := by
    by_cases hodd : oddStart o.profile w.a = true
    case pos =>
      rw [if_pos hodd, if_pos (oddStart_iff.1 hodd)]
      exact script_preStep x0 x hne hi h
    case neg =>
      rw [if_neg hodd, if_neg (mt oddStart_iff.2 hodd)]
      exact script_stream x hne h
  rw [programAai, aaiPieces, List.append_assoc]
  by_cases hdbsy : o.cfg.rybyDisable = true
  case pos =>
    rw [if_pos hdbsy, if_pos hdbsy]
    exact .sends (os := [o.cfg.opDbsy]) rfl body
  case neg =>
    rw [if_neg hdbsy, if_neg hdbsy]
    exact body

/-! ### WRITE with AAI = 1 (R302, R310) -/

/-- ProgramAAI's arguments in its working registers. -/
def Work.aaiArgs (w : Work) : Work := { w with a := w.opAddr, n := w.opLen, i := 0 }

theorem writeProgram_aai {s : State} (haai : s.profile.aai = true)
    (hfit : s.work.opLen.toNat ≤ s.cfg.bufBytes) (hne : s.work.opLen ≠ 0) :
    writeProgram s =
      (s.work.aaiArgs, programAai s.cfg s.profile s.work.opAddr ++ [.complete .ok]) := by
  rw [writeProgram, if_neg (Nat.not_lt.2 hfit), if_neg hne, if_pos haai]
  rfl

theorem exec_write_aai {s : State} (hs : s.atStart) (haai : s.profile.aai = true)
    (hfit : s.work.opLen.toNat ≤ s.cfg.bufBytes) (hne : s.work.opLen ≠ 0) :
    exec .write s = resume (programAai s.cfg s.profile s.work.opAddr ++ [.complete .ok])
      { s with work := s.work.aaiArgs } := by
  calc exec .write s = resume (writeProgram s).2 { s with work := (writeProgram s).1 } :=
        runCommand_start hs.1
    _ = _ := by rw [writeProgram_aai haai hfit hne]

/-- Settles O44: WRITE's program is ProgramAAI and the completion, and a script of the pieces. -/
theorem writeAutoIncrementRun : Obligations.WriteAutoIncrementRun := by
  unfold Obligations.WriteAutoIncrementRun
  intro s data x0 x hs haai hlen hne hfit hbuf ps hold
  have streams : s.work.aaiArgs.Streams s.buf data :=
    { left := hlen.symm
      fits := by simpa [Work.aaiArgs, hlen] using s.work.opLen.isLt
      held := bufHolds_iff_holdsFrom.1 hbuf }
  have start := exec_write_aai hs haai (hlen ▸ hfit) (mt streams.n_eq_zero_iff.1 hne)
  have script := script_programAai (w := s.work.aaiArgs) x0 x hne rfl streams
  exact ⟨Work.blank, run_command_script rfl hs start script hold⟩

end Sys2Proof.Machine

/-! ## Proofs: READ and READ_DELIM (spec/46_read.md) -/

namespace Sys2Proof.Machine

open Sys2Proof

/-! ### How many of the device's bytes a read takes (R340, R345) -/

/-- All of them, or with `delim` those up to and with the first logical 0x0A. -/
def readCount (delim : Bool) (data : List Byte) : Nat :=
  if delim then delimCount data else data.length

section
variable {delim : Bool} {p : Byte} {ps data : List Byte}

/-- R345 tests the byte that the model compares with the delimiter. -/
theorem complement_eq_delimiter_iff : complement p = delimiter ↔ 0xFF - p = 0x0A := by
  rw [complement_eq_sub]
  rfl

theorem readCount_cons_stop (h : ps = [] ∨ (delim ∧ complement p = delimiter)) :
    readCount delim (p :: ps) = 1 := by
  rcases h with rfl | ⟨rfl, hp⟩
  case inl => cases delim <;> simp [readCount, delimCount]
  case inr => exact if_pos (complement_eq_delimiter_iff.1 hp)

theorem readCount_cons_more (h : ¬ (delim ∧ complement p = delimiter)) :
    readCount delim (p :: ps) = readCount delim ps + 1 := by
  cases delim with
  | false => rfl
  | true =>
    have more : ¬ 0xFF - p = 0x0A := fun hp => h ⟨rfl, complement_eq_delimiter_iff.2 hp⟩
    exact (if_neg more).trans (Nat.add_comm 1 _)

theorem readCount_le_length (delim : Bool) (data : List Byte) :
    readCount delim data ≤ data.length := by
  induction data with
  | nil => cases delim <;> exact Nat.zero_le 0
  | cons p ps ih =>
    by_cases h : delim ∧ complement p = delimiter
    case pos => simp [readCount_cons_stop (.inr h)]
    case neg => simpa [readCount_cons_more h] using ih

theorem readCount_pos (h : data ≠ []) : 0 < readCount delim data := by
  obtain ⟨p, ps, rfl⟩ := List.exists_cons_of_ne_nil h
  by_cases hp : delim ∧ complement p = delimiter
  case pos => simp [readCount_cons_stop (.inr hp)]
  case neg => simp [readCount_cons_more hp]

end

/-! ### BUF and the working registers after the bytes of a read (R342) -/

/-- BUF after these received bytes are stored, complemented, from index k on. -/
def Memory.store (m : Memory) (k : Nat) (ps : List Byte) : Memory :=
  m.writeList k (ps.map fun p => 0xFF - p)

theorem Memory.store_cons (m : Memory) (k : Nat) (p : Byte) (ps : List Byte) :
    m.store k (p :: ps) = (m.write k (complement p)).store (k + 1) ps := by
  rw [complement_eq_sub]
  rfl

theorem Memory.read_store_mem {m : Memory} {k j : Nat} {p : Byte} {ps : List Byte}
    (h : ps[j]? = some p) : (m.store k ps).read (k + j) = some (0xFF - p) :=
  Memory.read_writeList_mem m k j _ _ (by simp [h])

theorem Memory.read_store_other {m : Memory} {k j : Nat} {ps : List Byte}
    (h : j < k ∨ k + ps.length ≤ j) : (m.store k ps).read j = m.read j :=
  Memory.read_writeList_other m k j _ (by simpa using h)

/-- The loop's index and rest after m bytes. -/
def Work.moved (w : Work) (m : Nat) : Work :=
  { w with i := w.i + BitVec.ofNat 16 m, n := w.n - BitVec.ofNat 16 m }

theorem Work.sent_moved (w : Work) (m : Nat) : w.sent.moved m = w.moved (m + 1) := by
  simp only [Work.moved, Work.sent, Work.mk.injEq, true_and, and_true]
  exact ⟨by bv_omega, by bv_omega⟩

/-! ### The bytes of a read, from the first Xfer to the Deselect (R340, R344) -/

/-- The bytes the device has for the next n Xfers of the open transaction. -/
def State.incoming (s : State) (n : Nat) : List Byte := s.replies (List.replicate n s.cfg.fill)

/-- After the last m bytes of a read: they are stored, and the bus is free. -/
def State.afterReceiving (m : Nat) (todo : List Stmt) (s : State) : State :=
  { s.endTxn (List.replicate m s.cfg.fill) with
    phase := .run (.at todo)
    buf := s.buf.store s.work.i.toNat (s.incoming m)
    work := s.work.moved m }

section
variable {i : Instr} {t : Txn} {delim : Bool} {todo : List Stmt} {s u : State}

/-- The byte the device has for a FILL. -/
def State.nextByte (s : State) : Byte := (s.flash.answer s.cfg s.cfg.fill).1

/-- The state at q with that byte received, and not yet stored. -/
def State.clocked (q : Pos) (s : State) : State :=
  s.ran true [.xfer s.cfg.fill s.nextByte] (s.flash.answer s.cfg s.cfg.fill).2 q s.work

/-- The state at q with that byte received and stored. -/
def State.received (q : Pos) (s : State) : State := storeData s.nextByte (s.clocked q)

theorem receive_clocked (hc : s.cs = true) :
    receive delim t [] todo s = .next (s.clocked (.wire t [.recvNext delim s.nextByte] todo)) :=
  xfer_ran (q := fun r => .wire t [.recvNext delim r] todo) (g := fun _ w => w) (fun _ _ => rfl) hc

theorem exec_clocked_last (hw : StepsWire i t)
    (h : s.work.n - 1 = 0 ∨ (delim ∧ complement s.nextByte = delimiter)) :
    exec i (s.clocked (.wire t [.recvNext delim s.nextByte] todo)) =
      deselect todo (s.received (.wire t [.recvNext delim s.nextByte] todo)) :=
  (hw _ [.recvNext delim s.nextByte] todo rfl).trans (if_pos h)

theorem exec_clocked_more (hw : StepsWire i t)
    (h : ¬ (s.work.n - 1 = 0 ∨ (delim ∧ complement s.nextByte = delimiter))) :
    exec i (s.clocked (.wire t [.recvNext delim s.nextByte] todo)) =
      receive delim t [] todo (s.received (.wire t [.recvNext delim s.nextByte] todo)) :=
  (hw _ [.recvNext delim s.nextByte] todo rfl).trans (if_neg h)

theorem State.incoming_zero (s : State) : s.incoming 0 = [] := rfl

theorem State.incoming_succ (s : State) (q : Pos) (n : Nat) :
    s.incoming (n + 1) = s.nextByte :: (s.received q).incoming n := rfl

theorem State.received_work (s : State) (q : Pos) : (s.received q).work = s.work.sent := rfl

/-- A byte and then m more are m + 1 bytes. -/
theorem afterReceiving_received (hi : s.work.i.toNat + 1 < 2 ^ 16) (q : Pos) (m : Nat) :
    (s.received q).afterReceiving m todo = s.afterReceiving (m + 1) todo := by
  have index : s.work.sent.i.toNat = s.work.i.toNat + 1 := by
    simp only [Work.sent]
    bv_omega
  rw [State.afterReceiving, State.received_work, Work.sent_moved, index]
  simp [State.afterReceiving, State.endTxn, State.received, State.clocked, State.nextByte,
    State.incoming, State.replies, State.ran, List.replicate_succ, Memory.store_cons]

theorem deselect_eq_afterReceiving (hc : s.cs = true) :
    deselect todo s = .next (s.afterReceiving 0 todo) := by
  rw [deselect_open hc]
  simp [State.afterReceiving, State.endTxn, State.incoming, State.replies, Memory.store,
    Memory.writeList, Work.moved]

/-- The last byte of a read, and the Deselect. -/
theorem run_receive_last (hw : StepsWire i t) (hstep : exec i s = receive delim t [] todo u)
    (hc : u.cs = true) (hi : u.work.i.toNat + 1 < 2 ^ 16)
    (hlast : u.work.n - 1 = 0 ∨ (delim ∧ complement u.nextByte = delimiter)) :
    runInstr i 2 s = .next (u.afterReceiving 1 todo) := by
  rw [runInstr_step (hstep.trans (receive_clocked hc)),
    runInstr_step ((exec_clocked_last hw hlast).trans (deselect_eq_afterReceiving rfl)),
    runInstr_zero, afterReceiving_received hi]

/-- The loop of a read with k + 1 bytes left takes the bytes R340 and R345 say, and deselects. -/
theorem run_receive (hw : StepsWire i t) (k : Nat) (hstep : exec i s = receive delim t [] todo u)
    (hc : u.cs = true) (hn : u.work.n.toNat = k + 1) (hi : u.work.i.toNat + (k + 1) < 2 ^ 16) :
    runInstr i (readCount delim (u.incoming (k + 1)) + 1) s =
      .next (u.afterReceiving (readCount delim (u.incoming (k + 1))) todo) := by
  induction k generalizing s u with
  | zero =>
    have hlast : u.work.n - 1 = 0 := by bv_omega
    rw [u.incoming_succ .start, State.incoming_zero, readCount_cons_stop (.inl rfl)]
    exact run_receive_last hw hstep hc hi (.inl hlast)
  | succ k ih =>
    rw [u.incoming_succ (.wire t [.recvNext delim u.nextByte] todo)]
    by_cases hp : delim ∧ complement u.nextByte = delimiter
    case pos =>
      rw [readCount_cons_stop (.inr hp)]
      exact run_receive_last hw hstep hc (by omega) (.inr hp)
    case neg =>
      have hmore : ¬ u.work.n - 1 = 0 := fun h => by bv_omega
      have left : (u.work.n - 1).toNat = k + 1 := by bv_omega
      have index : (u.work.i + 1).toNat + (k + 1) < 2 ^ 16 := by bv_omega
      rw [readCount_cons_more hp, runInstr_step (hstep.trans (receive_clocked hc)),
        ih (exec_clocked_more hw (not_or.2 ⟨hmore, hp⟩)) rfl left index,
        afterReceiving_received (by omega)]

end

/-! ### A whole read transaction (R131, R341) -/

/-- The device's answers to n Xfers after these header bytes. -/
def State.dataAfter (header : List Byte) (n : Nat) (s : State) : List Byte :=
  (s.answers (header ++ List.replicate n s.cfg.fill)).drop header.length

/-- The state with the header of a read sent, before its first data byte. -/
def State.headed (header : List Byte) (q : Pos) (s : State) : State :=
  s.ran true (.sel :: List.zipWith .xfer header (s.flash.select.converse s.cfg header).1)
    (s.flash.select.converse s.cfg header).2 q s.work

section
variable {i : Instr} {t : Txn} {delim : Bool} {todo : List Stmt} {s u : State} {header : List Byte}

theorem State.incoming_headed (q : Pos) (n : Nat) :
    (s.headed header q).incoming n = s.dataAfter header n := by
  simp [State.incoming, State.replies, State.headed, State.dataAfter, State.answers, converse_append]

theorem State.dataAfter_length (n : Nat) : (s.dataAfter header n).length = n := by
  simp [State.dataAfter, State.answers]

/-- The device's first answers do not depend on how many Xfers follow. -/
theorem State.dataAfter_take {m n : Nat} (h : m ≤ n) :
    s.dataAfter header m = (s.dataAfter header n).take m := by
  obtain ⟨k, rfl⟩ := Nat.exists_eq_add_of_le h
  rw [← State.incoming_headed .start, ← State.incoming_headed .start, State.incoming, State.incoming,
    State.replies, State.replies, ← List.replicate_append_replicate, converse_append]
  exact (List.take_left' (by simp)).symm

/-- The bytes that m Xfers received are stored where n would have put them, and nothing else changes. -/
theorem read_store_dataAfter (b : Memory) (k : Nat) {m n : Nat} (h : m ≤ n) :
    (∀ j, j < m → ∃ p, (s.dataAfter header n)[j]? = some p ∧
      (b.store k (s.dataAfter header m)).read (k + j) = some (0xFF - p)) ∧
    (∀ j, (j < k ∨ k + m ≤ j) → (b.store k (s.dataAfter header m)).read j = b.read j) := by
  constructor
  · intro j hj
    have received : j < (s.dataAfter header n).length := by
      rw [State.dataAfter_length]
      omega
    refine ⟨_, List.getElem?_eq_getElem received, Memory.read_store_mem ?_⟩
    rw [State.dataAfter_take h, List.getElem?_take_of_lt hj, List.getElem?_eq_getElem received]
  · intro j hj
    exact Memory.read_store_other (by rwa [State.dataAfter_length])

/-- After a read transaction that took m data bytes. -/
def State.afterRead (header : List Byte) (m : Nat) (todo : List Stmt) (s : State) : State :=
  { s.afterTxn (header ++ List.replicate m s.cfg.fill) with
    phase := .run (.at todo)
    buf := s.buf.store s.work.i.toNat (s.dataAfter header m)
    work := s.work.moved m }

theorem afterReceiving_headed (hc : s.cs = false) (q : Pos) (m : Nat) :
    (s.headed header q).afterReceiving m todo = s.afterRead header m todo := by
  rw [State.afterReceiving, State.incoming_headed]
  simp [State.afterRead, State.endTxn, State.headed, State.afterTxn, State.answers,
    State.replies, State.ran, converse_append, List.zipWith_append, hc]

/-- A whole read transaction, Select to Deselect, with the loop's length in n. -/
theorem run_readTxn (hw : StepsWire i t)
    (hacts : t.acts u.cfg u.profile u.work = header.map .send ++ [.recvFirst delim])
    (hopen : exec i s = beginTxn t todo u) (hc : u.cs = false) (hne : u.work.n ≠ 0)
    (hi : u.work.i.toNat + u.work.n.toNat < 2 ^ 16) :
    runInstr i (header.length + readCount delim (u.dataAfter header u.work.n.toNat) + 2) s =
      .next (u.afterRead header (readCount delim (u.dataAfter header u.work.n.toNat)) todo) := by
  obtain ⟨k, hk⟩ : ∃ k, u.work.n.toNat = k + 1 :=
    Nat.exists_eq_succ_of_ne_zero fun h => hne (BitVec.eq_of_toNat_eq h)
  have sends := run_sends hw header [.recvFirst delim] todo
    (u.ran true [.sel] u.flash.select (.wire t (header.map .send ++ [.recvFirst delim]) todo) u.work)
    rfl rfl
  rw [State.ran_ran] at sends
  have data := run_receive (u := u.headed header (.wire t [.recvFirst delim] todo)) hw k
    (hw _ [.recvFirst delim] todo rfl) rfl hk (hk ▸ hi)
  rw [beginTxn_ran hc, hacts] at hopen
  rw [State.incoming_headed, afterReceiving_headed hc] at data
  rw [hk]
  exact (runInstr_step hopen).trans ((runInstr_add sends).trans data)

end

/-! ### READ and READ_DELIM (R340, R344) -/

theorem readTxn_acts (cfg : Config) (p : Profile) (a : Addr) (delim : Bool) (w : Work) :
    (readTxn p a delim).acts cfg p w = (readHeader cfg p a).map .send ++ [.recvFirst delim] := by
  cases hf : p.fast with
  | false =>
    simp only [readTxn, readHeader, hf, Txn.acts]
    exact congrArg (· ++ _) (frameActs_eq_sends 0x03 a)
  | true =>
    simp only [readTxn, readHeader, hf, Txn.acts, if_true, List.map_append, List.append_assoc]
    exact congrArg (· ++ _) (frameActs_eq_sends 0x0B a)

/-- The loop's index and rest at its start. -/
def Work.readArgs (w : Work) : Work := { w with n := w.opLen, i := 0 }

section
variable {i : Instr} {delim : Bool} {last : Stmt} {s : State}

theorem readProgram_fits (hfit : s.work.opLen.toNat ≤ s.cfg.bufBytes) (hne : s.work.opLen ≠ 0) :
    readProgram delim last s =
      (s.work.readArgs, [.txn (readTxn s.profile s.work.opAddr delim), last]) := by
  rw [readProgram, if_neg (Nat.not_lt.2 hfit), if_neg hne]
  rfl

/-- What `read_store_dataAfter` says of a read command, whose loop starts at BUF[0]. -/
theorem read_store_readData (b : Memory) (a : Addr) {m n : Nat} (h : m ≤ n) :
    (∀ j, j < m → ∃ p, (s.readData a n)[j]? = some p ∧
      (b.store 0 (s.readData a m)).read j = some (0xFF - p)) ∧
    (∀ j, m ≤ j → (b.store 0 (s.readData a m)).read j = b.read j) := by
  have stored := read_store_dataAfter (s := s) (header := readHeader s.cfg s.profile a) b 0 h
  simp only [Nat.zero_add, Nat.not_lt_zero, false_or] at stored
  exact stored

/-- A read command up to the Deselect: the whole of its bus events. -/
theorem run_readCommand (hi : i.isCommand = true)
    (hprog : exec i s = runCommand (readProgram delim last) s) (hs : s.atStart)
    (hfit : s.work.opLen.toNat ≤ s.cfg.bufBytes) (hne : s.work.opLen ≠ 0) :
    let header := readHeader s.cfg s.profile s.work.opAddr
    let m := readCount delim (s.readData s.work.opAddr s.work.opLen.toNat)
    runInstr i (header.length + m + 2) s =
      .next (State.afterRead header m [last] { s with work := s.work.readArgs }) := by
  have hopen : exec i s = beginTxn (readTxn s.profile s.work.opAddr delim) [last]
      { s with work := s.work.readArgs } := by
    rw [hprog, runCommand_start hs.1, readProgram_fits hfit hne]
    rfl
  exact run_readTxn (u := { s with work := s.work.readArgs }) (stepsWire_command hi _)
    (readTxn_acts _ _ _ _ _) hopen hs.2 hne (by simpa [Work.readArgs] using s.work.opLen.isLt)

/-- A read command that takes m bytes, from its start to its completion. -/
theorem run_read_completes (hi : i.isCommand = true)
    (hprog : exec i s = runCommand (readProgram delim last) s) (hs : s.atStart)
    (hfit : s.work.opLen.toNat ≤ s.cfg.bufBytes) (hne : s.work.opLen.toNat ≠ 0) {m : Nat} {c : Half}
    (hm : readCount delim (s.readData s.work.opAddr s.work.opLen.toNat) = m)
    (hlast : ∀ u : State, u.work = s.work.readArgs.moved m →
      resume [last] u = complete .ok { u with count := c }) :
    let header := readHeader s.cfg s.profile s.work.opAddr
    runInstr i (header.length + m + 3) s = .next
      { (s.afterTxn (header ++ List.replicate m s.cfg.fill)).completed .ok with
        buf := s.buf.store 0 (s.readData s.work.opAddr m), count := c } := by
  intro header
  have run := run_readCommand hi hprog hs hfit (fun h => hne (congrArg BitVec.toNat h))
  rw [hm] at run
  have finish : exec i (State.afterRead header m [last] { s with work := s.work.readArgs }) = _ :=
    (stepsTodo_command hi _ [last] rfl).trans ((hlast _ rfl).trans (complete_free hs.2))
  exact (runInstr_add (n := 1) run).trans (runInstr_step finish)

end

/-- Settles O47: the program is one read transaction and the completion, and without a delimiter the
transaction takes every byte. -/
theorem readRun : Obligations.ReadRun := by
  unfold Obligations.ReadRun
  refine ⟨rfl, fun s hs => ?_⟩
  intro n header data
  obtain ⟨long, empty⟩ := lengthChecks s .read hs (.inr (.inl rfl))
  refine ⟨long, fun h => empty (BitVec.eq_of_toNat_eq h), fun hfit hne => ?_⟩
  have run := run_read_completes (i := .read) (delim := false) (m := n) (c := s.work.opLen) rfl rfl hs
    hfit hne (State.dataAfter_length n) fun u hu => by rw [resume, hu]; rfl
  exact ⟨_, run, rfl, read_store_readData s.buf s.work.opAddr (Nat.le_refl n)⟩

/-- Settles O48: as READ, and the loop's index, which becomes COUNT, is the number of bytes up to and with
the delimiter. -/
theorem readDelimRun : Obligations.ReadDelimRun := by
  unfold Obligations.ReadDelimRun
  refine ⟨rfl, fun s hs => ?_⟩
  intro n header data cnt
  obtain ⟨long, empty⟩ := lengthChecks s .readDelim hs (.inr (.inr rfl))
  refine ⟨long, fun h => empty (BitVec.eq_of_toNat_eq h), fun hfit hne => ?_⟩
  have length : data.length = n := State.dataAfter_length n
  have received : data ≠ [] := List.ne_nil_of_length_pos (by omega)
  have within : cnt ≤ n := length ▸ readCount_le_length true data
  have run := run_read_completes (i := .readDelim) (delim := true) (m := cnt)
    (c := BitVec.ofNat 16 cnt) rfl rfl hs hfit hne rfl fun u hu => by
      have index : u.work.i = BitVec.ofNat 16 cnt := hu ▸ BitVec.zero_add _
      rw [resume, index]
  exact ⟨_, run, rfl, readCount_pos (delim := true) received, within,
    read_store_readData s.buf s.work.opAddr within⟩

end Sys2Proof.Machine

/-! ## Proofs: the decoder and the encoder (spec/30_encoding.md) -/

namespace Sys2Proof.Machine

open Sys2Proof

/-! ### A command word and its fields (R51, R121) -/

/-- A word with no reserved bit is the command word of its ARG and its CODE. -/
theorem commandWord_cmdArg_cmdCode {w : Word} (h : cmdReserved w = 0) :
    commandWord (cmdArg w) (cmdCode w) = w := by
  have small : w.toNat < 512 := Nat.lt_of_not_le fun hbig => (cmdReserved_ne_zero_iff w).2 hbig h
  have arg : (cmdArg w).toNat = w.toNat / 256 := by
    rw [cmdArg, BitVec.getLsbD, Nat.toNat_testBit]
    omega
  apply BitVec.eq_of_toNat_eq
  rw [commandWord, BitVec.toNat_append, toNat_append_byte, cmdCode_toNat, BitVec.toNat_ofBool, arg]
  simp
  omega

/-- The words that decode are those of R121: no reserved bit, and the CODE's row with its ARG. -/
theorem decodeWord_eq_ok {w : Word} {i : Instr} (h : decodeWord w = .ok i) :
    cmdReserved w = 0 ∧
      ((cmdCode w = 0x02 ∧ i = .setProtect (cmdArg w)) ∨
        (decodeCode (cmdCode w) = .ok i ∧ cmdArg w = false)) := by
  unfold decodeWord at h
  split at h
  · cases h
  · rename_i hr
    refine ⟨Decidable.not_not.1 hr, ?_⟩
    split at h
    · rename_i hcode
      exact .inl ⟨hcode, (Except.ok.inj h).symm⟩
    · split at h
      · rename_i hj
        split at h
        · cases h
        · rename_i harg
          exact .inr ⟨hj.trans h, by simpa using harg⟩
      · cases h

theorem encode_of_decodeCode (c : Config) {code : Byte} {i : Instr} (h : decodeCode code = .ok i) :
    encode c i = .word (commandWord false code) := by
  unfold decodeCode at h
  repeat' split at h
  case isFalse => cases h
  all_goals
    cases h
    subst_vars
    rfl

theorem encode_of_decodeWord (c : Config) {w : Word} {i : Instr} (h : decodeWord w = .ok i) :
    encode c i = .word w := by
  obtain ⟨hr, ⟨hcode, rfl⟩ | ⟨hi, harg⟩⟩ := decodeWord_eq_ok h
  · rw [encode, ← hcode, commandWord_cmdArg_cmdCode hr]
  · rw [encode_of_decodeCode c hi, ← harg, commandWord_cmdArg_cmdCode hr]

/-- A test of the decoder that gives i passes with i's row, or leaves i to the later tests. -/
theorem ite_ok_eq_ok {p : Prop} [Decidable p] {i j : Instr} {r : Except Illegal Instr}
    (h : (if p then .ok j else r) = .ok i) : (p ∧ j = i) ∨ r = .ok i := by
  split at h
  · rename_i hp
    exact .inl ⟨hp, Except.ok.inj h⟩
  · exact .inr h

theorem encode_of_decodeOpcode {c : Config} {b : Byte} {i : Instr} (h : decodeOpcode c b = .ok i) :
    encode c i = .opcode b := by
  unfold decodeOpcode at h
  iterate 15
    obtain ⟨rfl, rfl⟩ | h := ite_ok_eq_ok h
    · rfl
  cases h

/-! ### What the encoder gives decodes again -/

theorem wellFormed_all (i : Instr) : i.wellFormed = true := by
  cases i <;> rfl

theorem decode_encode_command (c : Config) {i : Instr} (h : i.isCommand = true) :
    decode c (encode c i) = .ok i := by
  cases i with
  | setProtect arg => cases arg <;> rfl
  | detect | waitReady | eraseSector | eraseAll | write | writeByte | read | readDelim => rfl
  | _ => cases h

theorem opcodes_reverse_nodup {c : Config} (h : c.opcodesDistinct = true) : c.opcodes.reverse.Nodup :=
  List.pairwise_reverse.2 (List.Pairwise.imp Ne.symm (of_decide_eq_true h))

/-- Distinct opcodes: none of the parameters is tested as an earlier row (log 10). -/
theorem decode_encode_opcode {c : Config} {i : Instr} (h : i.isCommand = false)
    (hd : c.opcodesDistinct = true) : decode c (encode c i) = .ok i := by
  have later : c.opcodes.reverse.Nodup := opcodes_reverse_nodup hd
  simp [Config.opcodes] at later
  cases i with
  | spiWrsr | spiPp | spiRead | spiRdsr | spiFastRead | spiSe | spiEwsr | spiAaiA | spiAaiLegacy
  | spiCe => rfl
  | spiWren | spiWrdi | spiDbsy | spiRdid | spiRdidLegacy =>
    simp [encode, decode, decodeOpcode, later]
  | _ => cases h

/-- Settles O2: the fields of a word fix it, and distinct opcodes are told apart. -/
theorem decodeInvertsEncode : Obligations.DecodeInvertsEncode := by
  unfold Obligations.DecodeInvertsEncode
  intro c i e
  refine ⟨fun _ h => ?_, fun h => ⟨wellFormed_all i, ?_⟩⟩
  · cases hi : i.isCommand with
    | true => exact decode_encode_command c hi
    | false => exact decode_encode_opcode hi (by simpa [hi] using h)
  · cases e with
    | word w => exact encode_of_decodeWord c h
    | opcode b => exact encode_of_decodeOpcode h

end Sys2Proof.Machine

/-! ## Proofs: a running command and the host's side (spec/20_memory.md, spec/40_dispatch.md) -/

namespace Sys2Proof.Machine

open Sys2Proof

/-! ### A sequencer step commutes with a change of the host's side and of DONE (R89, R161, R175) -/

/-- The state s with the host's side of u, and DONE changed by f: all that a host access can do while a
command runs. -/
def State.hosted (s : State) (f : Bool → Bool) (u : State) : State :=
  { s.onto u with done := f s.done }

/-- The same change of an outcome, but that a completion's DONE stays (R172). -/
def hostedOutcome (f : Bool → Bool) (u : State) : Res → Res
  | .next t => .next { t.onto u with done := if t.busy then f t.done else t.done }
  | .fault e => .fault e
  | .refused e => .refused e

section
variable {f : Bool → Bool} {s u : State}

@[simp] theorem hosted_cfg : (s.hosted f u).cfg = s.cfg := rfl
@[simp] theorem hosted_cs : (s.hosted f u).cs = s.cs := rfl
@[simp] theorem hosted_phase : (s.hosted f u).phase = s.phase := rfl
@[simp] theorem hosted_work : (s.hosted f u).work = s.work := rfl
@[simp] theorem hosted_buf : (s.hosted f u).buf = s.buf := rfl
@[simp] theorem hosted_profile : (s.hosted f u).profile = s.profile := rfl

theorem ite_hosted {c : Prop} [Decidable c] {x y x' y' : Res} (hx : x' = hostedOutcome f u x)
    (hy : y' = hostedOutcome f u y) :
    (if c then x' else y') = hostedOutcome f u (if c then x else y) := by
  split
  · exact hx
  · exact hy

theorem select_hosted (t : Txn) (acts : List Act) (todo : List Stmt) :
    select t acts todo (s.hosted f u) = hostedOutcome f u (select t acts todo s) := by
  cases hc : s.cs <;> simp only [select, hosted_cs, hc] <;> rfl

theorem deselect_hosted (todo : List Stmt) :
    deselect todo (s.hosted f u) = hostedOutcome f u (deselect todo s) := by
  cases hc : s.cs <;> simp only [deselect, hosted_cs, hc] <;> rfl

/-- An Xfer whose continuation only moves the position and the working registers. -/
theorem xfer_hosted (o : Byte) {k : Byte → State → State} {q : Byte → Pos} {g : Byte → Work → Work}
    (hk : ∀ r s, k r s = { s with work := g r s.work, phase := .run (q r) }) :
    xfer o k (s.hosted f u) = hostedOutcome f u (xfer o k s) := by
  cases hc : s.cs <;> simp only [xfer, hk, hosted_cs, hc] <;> rfl

theorem complete_hosted (e : ErrCode) :
    complete e (s.hosted f u) = hostedOutcome f u (complete e s) := by
  cases hc : s.cs <;> simp only [complete, hosted_cs, hc] <;> rfl

theorem abort_hosted (e : ErrCode) : abort e (s.hosted f u) = hostedOutcome f u (abort e s) :=
  ite_hosted (deselect_hosted [.complete e]) (complete_hosted e)

theorem beginTxn_hosted (t : Txn) (todo : List Stmt) :
    beginTxn t todo (s.hosted f u) = hostedOutcome f u (beginTxn t todo s) :=
  select_hosted t _ todo

/-! The events of a transaction. -/

section
variable (t : Txn) (rest : List Act) (todo : List Stmt)

theorem sendChunkByte_hosted (two : Bool) :
    sendChunkByte two t rest todo (s.hosted f u) = hostedOutcome f u (sendChunkByte two t rest todo s) := by
  simp only [sendChunkByte, hosted_buf, hosted_work]
  split
  · rfl
  · exact xfer_hosted _ (q := fun _ => .wire t _ todo) (g := fun _ w => w) fun _ _ => rfl

theorem sample_hosted : sample t rest todo (s.hosted f u) = hostedOutcome f u (sample t rest todo s) :=
  xfer_hosted _ (q := fun _ => .wire t _ todo) (g := fun r w => { w with s := r, k := w.k + 1 })
    fun _ _ => rfl

theorem receive_hosted (delim : Bool) :
    receive delim t rest todo (s.hosted f u) = hostedOutcome f u (receive delim t rest todo s) :=
  xfer_hosted _ (q := fun r => .wire t (.recvNext delim r :: rest) todo) (g := fun _ w => w)
    fun _ _ => rfl

end

theorem wireStep_hosted (t : Txn) (acts : List Act) (todo : List Stmt) :
    wireStep t acts todo (s.hosted f u) = hostedOutcome f u (wireStep t acts todo s) := by
  cases acts with
  | nil => exact deselect_hosted todo
  | cons a rest =>
    cases a with
    | send o => exact xfer_hosted o (q := fun _ => .wire t rest todo) (g := fun _ w => w) fun _ _ => rfl
    | sendBuf j m =>
      simp only [wireStep, hosted_buf]
      split
      · rfl
      · exact xfer_hosted _ (q := fun _ => .wire t _ todo) (g := fun _ w => w) fun _ _ => rfl
    | chunkFirst two => exact sendChunkByte_hosted t rest todo two
    | chunkNext two =>
      exact ite_hosted (deselect_hosted (s := chunkSent s) todo) (ite_hosted
        (xfer_hosted (s := chunkSent s) _ (q := fun _ => .wire t rest todo) (g := fun _ w => w)
          fun _ _ => rfl)
        (sendChunkByte_hosted (s := chunkSent s) t rest todo false))
    | recvId slot =>
      exact xfer_hosted _ (q := fun _ => .wire t rest todo) (g := fun r w => w.setId slot r) fun _ _ => rfl
    | sampleFirst => exact sample_hosted t rest todo
    | sampleNext =>
      exact ite_hosted (deselect_hosted (s := s.published s.work.s) todo)
        (sample_hosted (s := s.published s.work.s) t rest todo)
    | recvFirst delim => exact receive_hosted t rest todo delim
    | recvNext delim p =>
      exact ite_hosted (deselect_hosted (s := storeData p s) todo)
        (receive_hosted (s := storeData p s) t rest todo delim)

/-! The pseudocode between transactions. -/

theorem beginBurst_hosted (rest : List Stmt) :
    beginBurst rest (s.hosted f u) = hostedOutcome f u (beginBurst rest s) :=
  beginTxn_hosted (s := { s with work := { s.work with k := 0 } }) rdsrTxn (.pollEnd :: rest)

theorem pollRestart_hosted (rest : List Stmt) :
    pollRestart rest (s.hosted f u) = hostedOutcome f u (pollRestart rest s) :=
  ite_hosted (abort_hosted (s := { s with work := { s.work with bursts := s.work.bursts + 1 } }) .timeout)
    rfl

theorem resolveId_hosted (rest : List Stmt) :
    resolveId rest (s.hosted f u) = hostedOutcome f u (resolveId rest s) := by
  simp only [resolveId, hosted_work, hosted_cfg, hosted_profile]
  split
  · exact complete_hosted (s := commitProfile _ false { s with jedecId := _ }) .ok
  · exact complete_hosted (s := commitProfile _ true { s with jedecId := _ }) .ok
  · exact beginTxn_hosted (s := { s with jedecId := joinId s.work.id0 s.work.id1 s.work.id2 }) _ _

theorem resolveLegacy_hosted :
    resolveLegacy (s.hosted f u) = hostedOutcome f u (resolveLegacy s) :=
  ite_hosted (complete_hosted (s := commitProfile _ false { s with legacyId := _ }) .ok)
    (complete_hosted (s := commitProfile _ true { s with legacyId := _ }) .ok)

theorem resume_hosted (todo : List Stmt) (s : State) :
    resume todo (s.hosted f u) = hostedOutcome f u (resume todo s) := by
  induction todo generalizing s with
  | nil => rfl
  | cons x rest ih =>
    cases x with
    | txn t => exact beginTxn_hosted t rest
    | waitReady =>
      exact beginBurst_hosted (s := { s with work := { s.work with bursts := 0 } }) rest
    | pollEnd => exact ite_hosted (ih s) (pollRestart_hosted rest)
    | pollBurst => exact beginBurst_hosted rest
    | resolveId => exact resolveId_hosted rest
    | resolveLegacy => exact resolveLegacy_hosted
    | aaiAdvance => exact ite_hosted (ih (advance s)) (beginTxn_hosted (s := advance s) _ _)
    | aaiLoop => exact ite_hosted (beginTxn_hosted _ _) (beginTxn_hosted _ _)
    | finishRead => exact complete_hosted (s := { s with count := s.work.opLen }) .ok
    | finishDelim => exact complete_hosted (s := { s with count := s.work.i }) .ok
    | complete e => exact complete_hosted e

/-- A command reads its operands from the snapshot of acceptance. -/
theorem program_hosted {i : Instr} {p : Program} (hp : programOf i = some p) :
    p (s.hosted f u) = p s := by
  cases i <;> cases hp <;> rfl

theorem exec_hosted (i : Instr) : exec i (s.hosted f u) = hostedOutcome f u (exec i s) := by
  rcases exec_shape i s with ⟨p, hp, e⟩ | ⟨m, hm, e⟩
  · rw [e, exec_command hp]
    simp only [runCommand, hosted_phase]
    split
    · rfl
    · rw [program_hosted hp]
      exact resume_hosted _ { s with work := (p s).1 }
    · exact resume_hosted _ s
    · exact wireStep_hosted _ _ _
  · rw [e, exec_row (s := s.hosted f u) hm]
    simp only [runTransaction, hosted_phase]
    split
    · split
      · exact beginTxn_hosted _ _
      · rfl
    · split
      · exact wireStep_hosted _ _ _
      · rfl
    · rfl

end

/-- Settles O30: the case of `exec_hosted` in which DONE stays. -/
theorem execReadsNoHostSide : Obligations.ExecReadsNoHostSide := by
  unfold Obligations.ExecReadsNoHostSide
  intro i s u
  refine (exec_hosted (f := id) (s := s) (u := u) i).trans ?_
  cases exec i s with
  | next t => simp only [hostedOutcome, ontoOutcome, id, ite_self]; rfl
  | fault e => rfl
  | refused e => rfl

/-- Settles O31: the host's move changes its own side and DONE, and with those the command's step commutes. -/
theorem hostCannotDisturbCommand : Obligations.HostCannotDisturbCommand := by
  unfold Obligations.HostCannotDisturbCommand
  intro i s u t hb hu ht
  have moved : u = s.hosted (fun _ => u.done) u := hostStep_busy hb hu
  have next : exec i u = hostedOutcome (fun _ => u.done) u (.next t) := by
    rw [← ht, ← exec_hosted, ← moved]
  refine ⟨_, next, rfl, fun hidle => ?_⟩
  exact if_neg (by simp [hidle])

end Sys2Proof.Machine

/-! ## Proofs: which instruction a step runs, and what any step can do (spec/40_dispatch.md) -/

namespace Sys2Proof.Machine

open Sys2Proof

/-! ### The step by its turn, and the instruction a sequencer step runs (R18, R163, R164) -/

section
variable {s : State} {i : Instr}

theorem step_host (hl : s.cfg.legal = true) (h : s.nextTurn = .host) : step s = hostStep s.popTurn := by
  simp only [step, hl, h, if_true]

theorem step_sequencer (hl : s.cfg.legal = true) (h : s.nextTurn = .sequencer) :
    step s = seqStep s.popTurn := by
  simp only [step, hl, h, if_true]

theorem step_reset (hl : s.cfg.legal = true) (h : s.nextTurn = .reset) :
    step s = .next (resetAction s.popTurn) := by
  simp only [step, hl, h, if_true]

/-- A step that is not refused has a legal configuration. -/
theorem legal_of_step {t : State} (h : step s = .next t) : s.cfg.legal = true := by
  cases hl : s.cfg.legal with
  | true => rfl
  | false => simp [step, hl] at h

theorem seqStep_of_fetch (h : fetch s = some i) : seqStep s = exec i s := by
  simp only [seqStep, h]

theorem commandInstr_eq_some {w : Word} (h : decodeWord w = .ok i) : commandInstr w = some i := by
  simp only [commandInstr, h]

theorem fetch_start (hp : s.phase = .run .start) (hd : decodeWord s.cmd = .ok i) : fetch s = some i := by
  simpa only [fetch, hp] using commandInstr_eq_some hd

/-- Settles O4: where `fetch` finds the instruction in each of the three phases. -/
theorem stepRunsDecoded : Obligations.StepRunsDecoded := by
  unfold Obligations.StepRunsDecoded
  intro s i hl hturn hphase
  refine (step_sequencer hl hturn).trans (seqStep_of_fetch ?_)
  rcases hphase with ⟨hp, hd⟩ | ⟨t, acts, todo, hp, ht⟩ | ⟨t, todo, hp, ht⟩
  · exact fetch_start hp hd
  · simp only [fetch, popTurn_phase, hp]
    exact ht
  · simp only [fetch, popTurn_phase, hp]
    exact ht

end

/-! ### A placed instruction (log 13) -/

theorem decodeWord_of_table {w : Nat} {i : Instr} (hw : w < 2 ^ 32)
    (h : decodeTableWord 32 w = some i) : decodeWord (BitVec.ofNat 32 w) = .ok i := by
  simp only [decodeTableWord, encodedOfTable, hw, true_and, if_true, decode] at h
  split at h
  · cases h
    assumption
  · cases h

/-- With distinct opcodes a row's transaction is looked up as that row. -/
theorem instr_tableTxn {c : Config} {i : Instr} {t : Txn} (hd : c.opcodesDistinct = true)
    (h : tableTxn c i = some t) : t.instr c = some i := by
  have later : c.opcodes.reverse.Nodup := opcodes_reverse_nodup hd
  simp [Config.opcodes] at later
  cases i with
  | spiWren | spiWrdi | spiDbsy =>
    cases h
    simp [Txn.instr, t1Instr, later]
  | spiRdid | spiRdidLegacy =>
    cases h
    exact if_pos rfl
  | spiWrsr | spiPp | spiRead | spiRdsr | spiFastRead | spiSe | spiEwsr | spiAaiA | spiAaiLegacy
  | spiCe =>
    cases h
    rfl
  | _ => cases h

/-- The step of a state that has just been given the turn. -/
theorem step_giveTurn {s : State} {i : Instr} (hl : s.cfg.legal = true) (h : fetch s = some i) :
    step (giveTurn s) = exec i s :=
  (step_sequencer (s := giveTurn s) hl rfl).trans (seqStep_of_fetch h)

/-- Settles O5: a placed word or transaction is what `fetch` finds. -/
theorem fetchWordRuns : Obligations.FetchWordRuns := by
  unfold Obligations.FetchWordRuns
  intro s w i hl
  refine ⟨fun hw hd => ?_, fun t hdistinct hd ht => ?_⟩
  · exact step_giveTurn (s := accept (BitVec.ofNat 32 w) { s with cs := false }) hl
      (fetch_start rfl (decodeWord_of_table hw hd))
  · have placed : s.withFetchWord 8 w = giveTurn (placeTxn t s) := by
      simp [State.withFetchWord, placeWord, hd, ht]
    rw [placed]
    exact step_giveTurn hl (instr_tableTxn hdistinct ht)

/-! ### A sequencer step is the running command's, whichever row names it (R164) -/

section
variable {s : State}

theorem seqStep_wire {t : Txn} {acts : List Act} {todo : List Stmt}
    (h : s.phase = .run (.wire t acts todo)) : seqStep s = wireStep t acts todo s := by
  have fetched : fetch s = t.instr s.cfg := by simp only [fetch, h]
  cases hi : t.instr s.cfg with
  | some i => rw [seqStep_of_fetch (fetched.trans hi), exec_row_wire hi h]
  | none =>
    simp only [seqStep, fetched, hi, stepUnnamed, h]
    exact runCommand_wire h

/-- Between transactions at no transaction of its own: the command word names the step, or no row does. -/
theorem seqStep_of_commandInstr {todo : List Stmt} (h : s.phase = .run (.at todo))
    (hf : fetch s = commandInstr s.cmd) : seqStep s = resume todo s := by
  cases hd : decodeWord s.cmd with
  | ok i =>
    obtain ⟨p, hp⟩ := decodeWord_command hd
    rw [seqStep_of_fetch (hf.trans (commandInstr_eq_some hd)), exec_command hp, runCommand_at h]
  | error e =>
    simp only [seqStep, hf, commandInstr, hd, stepUnnamed, h]
    exact runCommand_at h

theorem seqStep_at {todo : List Stmt} (h : s.phase = .run (.at todo)) : seqStep s = resume todo s := by
  match todo, h with
  | .txn t :: rest, h =>
    have fetched : fetch s = t.instr s.cfg := by simp only [fetch, h]
    cases hi : t.instr s.cfg with
    | some i =>
      rw [seqStep_of_fetch (fetched.trans hi), exec_row_at hi h]
      rfl
    | none =>
      simp only [seqStep, fetched, hi, stepUnnamed, h]
      exact runCommand_at h
  | [], h => exact seqStep_of_commandInstr h (by simp only [fetch, h])
  | .waitReady :: _, h | .pollEnd :: _, h | .pollBurst :: _, h | .resolveId :: _, h
  | .resolveLegacy :: _, h | .aaiAdvance :: _, h | .aaiLoop :: _, h | .finishRead :: _, h
  | .finishDelim :: _, h | .complete _ :: _, h =>
    exact seqStep_of_commandInstr h (by simp only [fetch, h])

/-- Settles O6: at every position both steps are the transaction's next event, or the same statements. -/
theorem commandOwnsItsSteps : Obligations.CommandOwnsItsSteps := by
  unfold Obligations.CommandOwnsItsSteps
  intro s i hb hd
  obtain ⟨p, hp⟩ := decodeWord_command hd
  match hphase : s.phase with
  | .idle => simp [State.busy, hphase] at hb
  | .run .start => exact seqStep_of_fetch (fetch_start hphase hd)
  | .run (.at todo) => rw [seqStep_at hphase, exec_command hp, runCommand_at hphase]
  | .run (.wire t acts todo) => rw [seqStep_wire hphase, exec_command hp, runCommand_wire hphase]

end

/-! ### Every instruction starts (R131, R163) -/

/-- A first statement that opens a transaction or completes, whatever the registers hold; never with
TIMEOUT, which only the poller gives (R402). -/
def Stmt.starts : Stmt → Bool
  | .txn _ | .waitReady => true
  | .complete e => decide (e ≠ .timeout)
  | .pollEnd | .pollBurst | .resolveId | .resolveLegacy | .aaiAdvance | .aaiLoop
  | .finishRead | .finishDelim => false

theorem readProgram_starts (delim : Bool) (last : Stmt) (s : State) :
    ∃ x rest, (readProgram delim last s).2 = x :: rest ∧ x.starts = true := by
  unfold readProgram
  split
  · exact ⟨_, _, rfl, rfl⟩
  split
  · exact ⟨_, _, rfl, rfl⟩
  · exact ⟨_, _, rfl, rfl⟩

theorem program_starts {i : Instr} {p : Program} (hp : programOf i = some p) (s : State) :
    ∃ x rest, (p s).2 = x :: rest ∧ x.starts = true := by
  cases i <;> cases hp
  case detect => simp only [detectProgram]; split <;> exact ⟨_, _, rfl, rfl⟩
  case setProtect => simp only [protectProgram]; split <;> exact ⟨_, _, rfl, rfl⟩
  case waitReady => exact ⟨_, _, rfl, rfl⟩
  case eraseSector => exact ⟨_, _, rfl, rfl⟩
  case eraseAll => exact ⟨_, _, rfl, rfl⟩
  case writeByte => exact ⟨_, _, rfl, rfl⟩
  case read => exact readProgram_starts false .finishRead s
  case readDelim => exact readProgram_starts true .finishDelim s
  case write =>
    simp only [writeProgram]
    split
    · exact ⟨_, _, rfl, rfl⟩
    split
    · exact ⟨_, _, rfl, rfl⟩
    split
    · unfold programAai
      cases s.cfg.rybyDisable <;> cases oddStart s.profile s.work.opAddr <;> exact ⟨_, _, rfl, rfl⟩
    · exact ⟨_, _, rfl, rfl⟩

/-- With the bus free such a statement selects or completes. -/
theorem resume_starts {x : Stmt} {rest : List Stmt} {s : State} (hx : x.starts = true)
    (hc : s.cs = false) :
    ∃ t, resume (x :: rest) s = .next t ∧
      ((t.busy = true ∧ t.cs = true ∧ t.history = s.history ++ [.sel]) ∨
        (t.busy = false ∧ t.cs = false ∧ t.done = true ∧ t.history = s.history)) := by
  cases x with
  | txn t => exact ⟨_, beginTxn_free hc, .inl ⟨rfl, rfl, rfl⟩⟩
  | waitReady =>
    exact ⟨_, beginTxn_free (s := { s with work := { s.work with bursts := 0, k := 0 } }) hc,
      .inl ⟨rfl, rfl, rfl⟩⟩
  | complete e => exact ⟨_, complete_free hc, .inr ⟨rfl, hc, rfl, rfl⟩⟩
  | _ => cases hx

theorem programOf_of_isCommand {i : Instr} (h : i.isCommand = true) : ∃ p, programOf i = some p := by
  cases i with
  | detect | setProtect | waitReady | eraseSector | eraseAll | write | writeByte | read | readDelim =>
    exact ⟨_, rfl⟩
  | _ => cases h

/-- Settles O7: every program's first statement starts it, and a row's transaction opens. -/
theorem everyInstructionStarts : Obligations.EveryInstructionStarts := by
  unfold Obligations.EveryInstructionStarts
  intro s i hc
  refine ⟨fun hi hp => ?_, fun t todo ht hp => (exec_row_at ht hp).trans (beginTxn_free hc)⟩
  obtain ⟨p, hprog⟩ := programOf_of_isCommand hi
  obtain ⟨x, rest, hfirst, hx⟩ := program_starts hprog s
  rw [exec_command hprog, runCommand_start hp, hfirst]
  exact resume_starts (s := { s with work := (p s).1 }) hx hc

/-! ### What a sequencer step can do, whatever instruction it is of (R164) -/

theorem Resumed.of_work {todo : List Stmt} {s u : State} {w : Work}
    (h : Resumed todo { s with work := w } u) : Resumed todo s u := by
  cases h with
  | opens t acts todo' w' j hc hj h => exact .opens t acts todo' w' j hc hj h
  | window todo' w' h => exact .window todo' w' h
  | ends e c hc h => exact .ends e c hc h
  | commits p unknown j l hc hr h => exact .commits p unknown j l hc hr h
  | aborts w' e hc h => exact .aborts w' e hc h

/-- A step inside a transaction, or one of the pseudocode between transactions. -/
inductive Stepped (s u : State) : Prop where
  | wire (t : Txn) (acts : List Act) (todo : List Stmt) (hp : s.phase = .run (.wire t acts todo))
      (h : wireStep t acts todo s = .next u)
  | resumed (todo : List Stmt) (hacts : s.phase.acts = []) (hwire : s.phase.inWire = false)
      (hnow : resolvesNow todo = true → s.phase.todo.any Stmt.resolves = true) (h : Resumed todo s u)

theorem Stepped.of_at {todo : List Stmt} {s u : State} (hp : s.phase = .run (.at todo))
    (h : resume todo s = .next u) : Stepped s u :=
  .resumed todo (by rw [hp]; rfl) (by rw [hp]; rfl) (by rw [hp]; exact any_resolves_of_now)
    (resume_next h)

theorem Stepped.of_start {p : Program} {s u : State} (hp : s.phase = .run .start)
    (hlater : resolvesNow (p s).2 = false) (h : resume (p s).2 { s with work := (p s).1 } = .next u) :
    Stepped s u :=
  .resumed (p s).2 (by rw [hp]; rfl) (by rw [hp]; rfl) (by simp [hlater]) (resume_next h).of_work

theorem exec_stepped {i : Instr} {s u : State} (h : exec i s = .next u) : Stepped s u := by
  rcases exec_next h with ⟨t, acts, todo, hp, h⟩ | ⟨todo, hp, h⟩ | ⟨p, hp, hq, h⟩
  · exact .wire t acts todo hp h
  · exact .of_at hp h
  · exact .of_start hp (program_resolves_later hq s) h

theorem seqStep_stepped {s u : State} (hb : s.busy = true) (h : seqStep s = .next u) : Stepped s u := by
  rcases seqStep_next hb h with ⟨t, acts, todo, hp, h⟩ | ⟨todo, hp, h⟩ | ⟨p, hp, hq, h⟩
  · exact .wire t acts todo hp h
  · exact .of_at hp h
  · refine .of_start hp ?_ h
    rcases hq with rfl | ⟨i, -, hq⟩
    · rfl
    · exact program_resolves_later hq s

/-- One bus event, or a completion with none. -/
theorem Stepped.one_event {s u : State} (h : Stepped s u) :
    (u.busy = true ∧ u.done = s.done ∧ u.err = s.err ∧ ∃ e, u.history = s.history ++ [e]) ∨
    (u.busy = false ∧ u.done = true ∧ u.history = s.history ∧ u.flash = s.flash ∧
      s.cs = false ∧ u.cs = false) := by
  cases h with
  | wire t acts todo hp h =>
    obtain ⟨-, ⟨w, rfl⟩ | ⟨o, acts', w, rfl⟩⟩ := wireStep_next h
    · exact .inl ⟨rfl, rfl, rfl, _, rfl⟩
    · exact .inl ⟨rfl, rfl, rfl, _, rfl⟩
  | resumed todo _ _ _ h =>
    obtain ⟨_, _, _, _, _, _, _, rfl⟩ | ⟨_, _, rfl⟩ | ⟨_, _, hc, rfl⟩ | ⟨_, _, _, _, hc, _, rfl⟩ |
      ⟨_, _, _, rfl⟩ := h
    · exact .inl ⟨rfl, rfl, rfl, _, rfl⟩
    · exact .inl ⟨rfl, rfl, rfl, _, rfl⟩
    · exact .inr ⟨rfl, rfl, rfl, rfl, hc, hc⟩
    · exact .inr ⟨rfl, rfl, rfl, rfl, hc, hc⟩
    · exact .inl ⟨rfl, rfl, rfl, _, rfl⟩

/-- Settles O24: inside a transaction an event, between transactions an event or a completion. -/
theorem oneEventPerStep : Obligations.OneEventPerStep := by
  unfold Obligations.OneEventPerStep
  intro s t hb h
  exact (seqStep_stepped hb h).one_event

/-- Settles O55: the row's step is the transaction's next event, which faults only at an unwritten byte. -/
theorem rowTakesItsEvent : Obligations.RowTakesItsEvent := by
  unfold Obligations.RowTakesItsEvent
  intro s i t acts todo ht hp hc
  rw [exec_row_wire ht hp]
  rcases wireStep_total (t := t) (acts := acts) (todo := todo) hc with ⟨u, h⟩ | hfault
  · refine .inl ?_
    obtain ⟨-, ⟨w, rfl⟩ | ⟨o, acts', w, rfl⟩⟩ := wireStep_next h
    · exact ⟨_, _, h, rfl, rfl⟩
    · exact ⟨_, _, h, rfl, rfl⟩
  · exact .inr hfault

/-! ### The frame of a sequencer step (R161, R164) -/

theorem bufAfter_read (d : Bool) (p : Byte) (rest : List Act) (s : State) (j : Nat) :
    (bufAfter (.recvNext d p :: rest) s).read j =
      if j = s.work.i.toNat then some (0xFF - p) else s.buf.read j := by
  rw [← complement_eq_sub]
  split
  case isTrue h => exact h ▸ Memory.read_write_same _ _ _
  case isFalse h => exact Memory.read_write_other _ _ _ _ h

theorem bufAfter_of_not_recvNext {acts : List Act} {s : State}
    (h : ∀ d p rest, acts ≠ .recvNext d p :: rest) : bufAfter acts s = s.buf := by
  unfold bufAfter
  split
  · exact absurd rfl (h _ _ _)
  · rfl

theorem statusAfter_eq (acts : List Act) (s : State) :
    statusAfter acts s = if acts.head? = some .sampleNext then s.work.s else s.lastStatus := by
  unfold statusAfter
  split
  · rfl
  · rename_i h
    rw [if_neg]
    intro hhead
    obtain ⟨rest, rfl⟩ := List.head?_eq_some_iff.1 hhead
    exact h rest rfl

theorem wireStep_frame {t : Txn} {acts : List Act} {todo : List Stmt} {s u : State}
    (h : wireStep t acts todo s = .next u) :
    ∃ cs es f p w, u = { s with cs := cs, history := es, flash := f, phase := .run p, work := w,
                                buf := bufAfter acts s, lastStatus := statusAfter acts s } := by
  obtain ⟨-, ⟨w, h⟩ | ⟨o, acts', w, h⟩⟩ := wireStep_next h
  · exact ⟨_, _, _, _, _, h⟩
  · exact ⟨s.cs, _, _, _, _, h⟩

section
variable {todo : List Stmt} {s u : State}

theorem Resumed.frame (h : Resumed todo s u) :
    u.cfg = s.cfg ∧ u.cmd = s.cmd ∧ u.addr = s.addr ∧ u.len = s.len ∧ u.busyAcc = s.busyAcc ∧
    u.restartLimit = s.restartLimit ∧ u.faults = s.faults ∧ u.host = s.host ∧
    u.responses = s.responses ∧ u.sched = s.sched ∧ u.buf = s.buf ∧ u.lastStatus = s.lastStatus := by
  cases h <;> subst_vars <;> exact ⟨rfl, rfl, rfl, rfl, rfl, rfl, rfl, rfl, rfl, rfl, rfl, rfl⟩

/-- Only a DETECT that resolves writes the profile registers. -/
theorem Resumed.profile_frame (h : Resumed todo s u) (hnow : resolvesNow todo = false) :
    u.profile = s.profile ∧ u.usableSectors = s.usableSectors ∧ u.unknownDev = s.unknownDev ∧
      u.profileLocked = s.profileLocked ∧ u.jedecId = s.jedecId ∧ u.legacyId = s.legacyId := by
  cases h with
  | opens t acts todo' w j hc hj h => exact h ▸ ⟨rfl, rfl, rfl, rfl, hj hnow, rfl⟩
  | window todo' w h => exact h ▸ ⟨rfl, rfl, rfl, rfl, rfl, rfl⟩
  | ends e c hc h => exact h ▸ ⟨rfl, rfl, rfl, rfl, rfl, rfl⟩
  | commits p unknown j l hc hr h => simp [hnow] at hr
  | aborts w e hc h => exact h ▸ ⟨rfl, rfl, rfl, rfl, rfl, rfl⟩

theorem Resumed.count_frame (h : Resumed todo s u) (hb : u.busy = true) : u.count = s.count := by
  cases h with
  | ends e c hc h => subst h; cases hb
  | _ => subst_vars; rfl

end

/-- Settles O29: the changes of the two kinds of step, read field by field. -/
theorem sequencerFrame : Obligations.SequencerFrame := by
  unfold Obligations.SequencerFrame
  intro i s t h
  cases exec_stepped h with
  | wire x acts todo hp h =>
    have hacts : s.phase.acts = acts := by rw [hp]; rfl
    obtain ⟨cs, es, f, p, w, rfl⟩ := wireStep_frame h
    rw [hacts]
    refine ⟨rfl, rfl, rfl, rfl, rfl, rfl, rfl, rfl, rfl, rfl, ?_, bufAfter_of_not_recvNext,
      statusAfter_eq acts s, fun _ => ⟨rfl, rfl, rfl, rfl, rfl, rfl⟩, fun _ => rfl⟩
    rintro d p rest rfl j
    exact bufAfter_read d p rest s j
  | resumed todo hacts _ hnow h =>
    rw [hacts]
    obtain ⟨hcfg, hcmd, haddr, hlen, hacc, hlimit, hfaults, hhost, hresp, hsched, hbuf, hstatus⟩ := h.frame
    refine ⟨hcfg, hcmd, haddr, hlen, hacc, hlimit, hfaults, hhost, hresp, hsched, nofun,
      fun _ => hbuf, hstatus, fun hr => h.profile_frame ?_, h.count_frame⟩
    exact Bool.eq_false_iff.2 fun hn => by simp [hnow hn] at hr

end Sys2Proof.Machine

/-! ## Proofs: what any step can do, the host's and a reset's among them (spec/20_memory.md) -/

namespace Sys2Proof.Machine

open Sys2Proof

/-! ### What a move of the host can do (R82, R83, R162) -/

/-- A host move changes the host's side and may clear DONE; while idle it may besides set RESTART_LIMIT,
accept a command, or write a word of BUF. -/
inductive HostMoved (s u : State) : Prop where
  | side (d : Bool) (hd : d = true → s.done = true) (h : u = { s.onto u with done := d })
  | limits (l : Half) (hidle : s.busy = false) (h : u = { s.onto u with restartLimit := l })
  | accepts (v : Word) (hidle : s.busy = false) (h : u = (accept v s).onto u)
  | stores (j : Nat) (v : Word) (hidle : s.busy = false)
      (hj : s.cfg.bufLegal = true → j + 4 ≤ s.cfg.bufBytes)
      (h : u = { s.onto u with buf := s.buf.writeList j (wordBytes v) })

section
variable {s t u : State}

theorem HostMoved.of_onto (h : u = s.onto u) : HostMoved s u := .side s.done id h

/-- The host's side may change again after the move. -/
theorem HostMoved.then (h : HostMoved s t) (hu : u = t.onto u) : HostMoved s u := by
  have same {x : State} (h : t = x.onto t) : u = x.onto u := by rw [hu, h]; rfl
  cases h with
  | side d hd h => exact .side d hd (same (x := { s with done := d }) h)
  | limits l hidle h => exact .limits l hidle (same (x := { s with restartLimit := l }) h)
  | accepts v hidle h => exact .accepts v hidle (same h)
  | stores j v hidle hj h =>
    exact .stores j v hidle hj (same (x := { s with buf := s.buf.writeList j (wordBytes v) }) h)

/-- The host's list may change before the move. -/
theorem HostMoved.of_host {rest : List HostStmt} (h : HostMoved { s with host := rest } u) :
    HostMoved s u := by
  cases h with
  | side d hd h => exact .side d hd h
  | limits l hidle h => exact .limits l hidle h
  | accepts v hidle h => exact .accepts v hidle h
  | stores j v hidle hj h => exact .stores j v hidle hj h

theorem whenIdle_moved {f : State → State} (h : s.busy = false → HostMoved s (f s)) :
    HostMoved s (whenIdle f s) := by
  unfold whenIdle
  split
  · exact .of_onto rfl
  · rename_i hb
    exact h (by simpa using hb)

theorem clearW1c_moved (v : Word) : HostMoved s (clearW1c v s) := by
  refine .side (clearW1c v s).done (fun hd => ?_) rfl
  rw [clearW1c_done, Bool.and_eq_true] at hd
  exact hd.1

theorem writeReg_moved (off : Offset) (v : Word) : HostMoved s (writeReg off v s) := by
  unfold writeReg
  split
  · exact whenIdle_moved fun hidle => .accepts v hidle rfl
  split
  · exact whenIdle_moved fun _ => .of_onto rfl
  split
  · exact whenIdle_moved fun _ => .of_onto rfl
  split
  · exact clearW1c_moved v
  split
  · exact whenIdle_moved fun hidle => .limits _ hidle rfl
  · exact .of_onto rfl

theorem bufIndex_eq_some {c : Config} {off : Offset} {j : Nat} (h : bufIndex c off = some j) :
    off.toNat = 0x1000 + j ∧ j < c.bufBytes := by
  unfold bufIndex at h
  split at h
  · have hj := Option.some.inj h
    omega
  · cases h

/-- An aligned word of BUF lies inside it: BUF_BYTES is a multiple of 4 (R10). -/
theorem bufIndex_word_fits {c : Config} {off : Offset} {j : Nat} (ha : off.toNat % 4 = 0)
    (h : bufIndex c off = some j) (hc : c.bufLegal = true) : j + 4 ≤ c.bufBytes := by
  obtain ⟨hoff, hj⟩ := bufIndex_eq_some h
  simp only [Config.bufLegal, Bool.and_eq_true, decide_eq_true_eq] at hc
  omega

theorem hostWrite_moved {off : Offset} (v : Word) (ha : off.toNat % 4 = 0) :
    HostMoved s (hostWrite off v s) := by
  cases hj : bufIndex s.cfg off with
  | some j =>
    rw [hostWrite_inside hj]
    exact whenIdle_moved fun hidle => .stores j v hidle (bufIndex_word_fits ha hj) rfl
  | none =>
    rw [hostWrite_outside hj]
    exact writeReg_moved off v

/-- A read changes nothing but BUSYACC. -/
theorem hostRead_onto {off : Offset} {v : Word} (h : hostRead off s = .ok (v, t)) : t = s.onto t := by
  unfold hostRead at h
  split at h
  · split at h
    · cases h
      rfl
    · split at h
      · cases h
        rfl
      · cases h
  · cases h
    rfl

theorem busError_moved (off : Offset) : HostMoved s (busError off s) := by
  obtain ⟨fs, h, -⟩ := busError_spec off s
  exact .of_onto (by rw [h]; rfl)

theorem hostAccess_moved {a : HostAccess} (h : hostAccess a s = .next u) : HostMoved s u := by
  unfold hostAccess at h
  split at h
  · split at h
    · split at h
      · rename_i hread
        cases h
        exact (HostMoved.of_onto (hostRead_onto hread)).then rfl
      · cases h
    · cases h
      exact busError_moved _
  · split at h
    · rename_i ha
      cases h
      exact (hostWrite_moved _ (admitted_iff.1 ha).2).then rfl
    · cases h
      exact busError_moved _

theorem pollRound_moved {off : Offset} {mask value : Word} {rest : List HostStmt}
    (h : pollRound off mask value rest s = .next u) : HostMoved s u := by
  unfold pollRound at h
  split at h
  · split at h
    · rename_i hread
      have moved := HostMoved.of_onto (hostRead_onto hread)
      split at h
      · cases h
        exact moved.then rfl
      · cases h
        exact moved.then rfl
    · cases h
  · cases h
    exact busError_moved _

theorem hostStep_moved (h : hostStep s = .next u) : HostMoved s u := by
  unfold hostStep at h
  split at h
  · cases h
    exact .of_onto rfl
  · exact (hostAccess_moved h).of_host
  · exact pollRound_moved h
  · split at h
    · exact (hostAccess_moved h).of_host
    · cases h
      exact .of_onto rfl
  · split at h
    · exact (hostAccess_moved h).of_host
    · cases h
      exact .of_onto rfl

/-! ### A recorded fault stays (R410) -/

theorem busError_faults_subset (off : Offset) : s.faults ⊆ (busError off s).faults := by
  obtain ⟨fs, h, hfs⟩ := busError_spec off s
  rw [h]
  exact fun f hf => (hfs f).2 (.inl hf)

theorem hostAccess_faults_subset {a : HostAccess} (h : hostAccess a s = .next u) :
    s.faults ⊆ u.faults := by
  cases a with
  | read off size =>
    by_cases ha : admitted off size = true
    · rw [hostAccess_read_admitted_faults ha h]
      exact List.Subset.refl _
    · cases (hostAccess_read_not_admitted ha).symm.trans h
      exact busError_faults_subset off
  | write off size v =>
    by_cases ha : admitted off size = true
    · rw [hostAccess_write_admitted_faults ha h]
      exact List.Subset.refl _
    · cases (hostAccess_write_not_admitted ha).symm.trans h
      exact busError_faults_subset off

theorem pollRound_faults_subset {off : Offset} {mask value : Word} {rest : List HostStmt}
    (h : pollRound off mask value rest s = .next u) : s.faults ⊆ u.faults := by
  unfold pollRound at h
  split at h
  · split at h
    · rename_i hread
      rw [← hostRead_faults hread]
      split at h
      · cases h
        exact List.Subset.refl _
      · cases h
        exact List.Subset.refl _
    · cases h
  · cases h
    exact busError_faults_subset off

theorem hostStep_faults_subset (h : hostStep s = .next u) : s.faults ⊆ u.faults := by
  unfold hostStep at h
  split at h
  · cases h
    exact List.Subset.refl _
  · rename_i rest _
    exact hostAccess_faults_subset (s := { s with host := rest }) h
  · exact pollRound_faults_subset h
  · rename_i rest _
    split at h
    · exact hostAccess_faults_subset (s := { s with host := rest }) h
    · cases h
      exact List.Subset.refl _
  · rename_i rest _
    split at h
    · exact hostAccess_faults_subset (s := { s with host := rest }) h
    · cases h
      exact List.Subset.refl _

/-! ### What every step keeps (R63, R410, R461) -/

/-- The configuration and the history grow-only: what no move of any agent breaks. -/
def State.ExtendedBy (s u : State) : Prop := u.cfg = s.cfg ∧ s.history <+: u.history

theorem HostMoved.extendedBy (h : HostMoved s u) : s.ExtendedBy u := by
  cases h <;> (rename_i h; rw [h]; exact ⟨rfl, List.prefix_refl _⟩)

theorem Stepped.extendedBy (h : Stepped s u) : s.ExtendedBy u := by
  cases h with
  | wire t acts todo hp h =>
    obtain ⟨-, ⟨w, rfl⟩ | ⟨o, acts', w, rfl⟩⟩ := wireStep_next h
    · exact ⟨rfl, List.prefix_append _ _⟩
    · exact ⟨rfl, List.prefix_append _ _⟩
  | resumed todo _ _ _ h =>
    obtain ⟨_, _, _, _, _, _, _, rfl⟩ | ⟨_, _, rfl⟩ | ⟨_, _, _, rfl⟩ | ⟨_, _, _, _, _, _, rfl⟩ |
      ⟨_, _, _, rfl⟩ := h
    · exact ⟨rfl, List.prefix_append _ _⟩
    · exact ⟨rfl, List.prefix_append _ _⟩
    · exact ⟨rfl, List.prefix_refl _⟩
    · exact ⟨rfl, List.prefix_refl _⟩
    · exact ⟨rfl, List.prefix_append _ _⟩

theorem Stepped.faults_eq (h : Stepped s u) : u.faults = s.faults := by
  cases h with
  | wire t acts todo hp h =>
    obtain ⟨_, _, _, _, _, rfl⟩ := wireStep_frame h
    rfl
  | resumed todo _ _ _ h =>
    obtain ⟨-, -, -, -, -, -, hfaults, -⟩ := h.frame
    exact hfaults

theorem resetAction_extendedBy (s : State) : s.ExtendedBy (resetAction s) := by
  refine ⟨rfl, ?_⟩
  simp only [resetAction]
  split
  · exact List.prefix_append _ _
  · exact List.prefix_refl _

theorem busy_or_idle (s : State) : s.busy = true ∨ s.phase = .idle := by
  cases hp : s.phase with
  | idle => exact .inr rfl
  | run p => exact .inl (by simp only [State.busy, hp])

/-- What a step with a next state is, by its turn. -/
theorem step_next (h : step s = .next u) :
    (s.nextTurn = .host ∧ hostStep s.popTurn = .next u) ∨
    (s.nextTurn = .sequencer ∧ s.busy = true ∧ seqStep s.popTurn = .next u) ∨
    (s.nextTurn = .sequencer ∧ s.phase = .idle ∧ u = s.popTurn) ∨
    (s.nextTurn = .reset ∧ u = resetAction s.popTurn) := by
  have hl := legal_of_step h
  cases hturn : s.nextTurn with
  | host => exact .inl ⟨rfl, (step_host hl hturn).symm.trans h⟩
  | reset =>
    exact .inr (.inr (.inr ⟨rfl, Host.Outcome.next.inj (h.symm.trans (step_reset hl hturn))⟩))
  | sequencer =>
    rw [step_sequencer hl hturn] at h
    rcases busy_or_idle s with hb | hp
    · exact .inr (.inl ⟨rfl, hb, h⟩)
    · exact .inr (.inr (.inl ⟨rfl, hp, Host.Outcome.next.inj (h.symm.trans (seqStep_idle hp))⟩))

end

/-- Settles O23: each of the three agents' moves extends the history and keeps the rest. -/
theorem historyAndFaultsOnlyGrow : Obligations.HistoryAndFaultsOnlyGrow := by
  unfold Obligations.HistoryAndFaultsOnlyGrow
  intro s t h
  rcases step_next h with ⟨-, h⟩ | ⟨-, hb, h⟩ | ⟨-, -, rfl⟩ | ⟨-, rfl⟩
  · obtain ⟨hcfg, hhist⟩ := (hostStep_moved h).extendedBy
    exact ⟨hcfg, hhist, fun f hf => hostStep_faults_subset h hf⟩
  · have stepped := seqStep_stepped (s := s.popTurn) hb h
    obtain ⟨hcfg, hhist⟩ := stepped.extendedBy
    exact ⟨hcfg, hhist, fun f hf => stepped.faults_eq ▸ hf⟩
  · exact ⟨rfl, List.prefix_refl _, fun f hf => hf⟩
  · obtain ⟨hcfg, hhist⟩ := resetAction_extendedBy s.popTurn
    exact ⟨hcfg, hhist, fun f hf => hf⟩

/-- While a command runs the host's move leaves the phase. -/
theorem HostMoved.phase_of_busy {s u : State} (hb : s.busy = true) (h : HostMoved s u) :
    u.phase = s.phase := by
  cases h with
  | side d hd h => rw [h]; rfl
  | limits l hidle h => rw [h]; rfl
  | accepts v hidle h => simp [hb] at hidle
  | stores j v hidle hj h => rw [h]; rfl

theorem busy_eq_of_phase {s u : State} (h : u.phase = s.phase) : u.busy = s.busy := by
  simp only [State.busy, h]

/-- Settles O25: the host leaves the phase, and the sequencer's step ends it only as its completion. -/
theorem commandEndsByCompletionOrReset : Obligations.CommandEndsByCompletionOrReset := by
  unfold Obligations.CommandEndsByCompletionOrReset
  intro s t hb h hidle
  rcases step_next h with ⟨-, h⟩ | ⟨hturn, -, h⟩ | ⟨-, hp, rfl⟩ | ⟨hturn, -⟩
  · have phase := (hostStep_moved h).phase_of_busy (s := s.popTurn) hb
    rw [busy_eq_of_phase phase] at hidle
    cases hb.symm.trans hidle
  · rcases (seqStep_stepped (s := s.popTurn) hb h).one_event with ⟨hbusy, -⟩ | ⟨-, hdone, hhist, -, -, hcs⟩
    · cases hbusy.symm.trans hidle
    · exact .inr ⟨hturn, hdone, hcs, hhist⟩
  · cases hb.symm.trans hidle
  · exact .inl hturn

end Sys2Proof.Machine

/-! ## Proofs: the invariant of the machine (spec/40_dispatch.md, spec/10_state.md) -/

namespace Sys2Proof.Machine

open Sys2Proof

/-! ### What is left of an open transaction (R261, R340) -/

/-- The invariant's clauses about the acts of an open transaction and the registers they count in. -/
structure ActsOk (c : Config) (acts : List Act) (w : Work) : Prop where
  samples : w.k ≤ 100
  firstSample : Act.sampleFirst ∈ acts → w.k = 0
  sampleLast : acts.dropLast.all (fun a => !a.samples) = true
  receiving : acts.any Act.receives = true →
    acts.all (fun a => a.receives || a.sends) = true ∧ w.n ≠ 0 ∧ w.i.toNat + w.n.toNat ≤ c.bufBytes

/-- An act that neither takes a status sample nor stores a data byte. -/
def Act.quiet (a : Act) : Bool := !a.samples && !a.receives

section
variable {c : Config} {a b : Act} {rest acts : List Act} {w v : Work}

/-- Acts that neither sample nor receive ask nothing of the registers. -/
theorem ActsOk.of_quiet (hk : w.k ≤ 100) (h : acts.all Act.quiet = true) : ActsOk c acts w := by
  have quiet {x : Act} (hx : x ∈ acts) : x.samples = false ∧ x.receives = false := by
    simpa [Act.quiet] using List.all_eq_true.1 h x hx
  refine ⟨hk, fun hm => ?_, List.all_eq_true.2 fun x hx => ?_, fun hany => ?_⟩
  · cases (quiet hm).1
  · simp [(quiet (List.dropLast_subset acts hx)).1]
  · obtain ⟨x, hx, hr⟩ := List.any_eq_true.1 hany
    cases (quiet hx).2.symm.trans hr

theorem ActsOk.nil_of_samples (h : ActsOk c (a :: rest) w) (ha : a.samples = true) : rest = [] := by
  cases rest with
  | nil => rfl
  | cons x xs => simpa [ha] using h.sampleLast

theorem ActsOk.none_receives (h : ActsOk c (a :: rest) w) (hr : a.receives = false)
    (hs : a.sends = false) : ¬ rest.any Act.receives = true := by
  intro hany
  have all := (h.receiving (by simp [hany])).1
  simp [hr, hs] at all

/-- The head is done. -/
theorem ActsOk.tail (h : ActsOk c (a :: rest) w) (hk : v.k = w.k)
    (hr : rest.any Act.receives = true → v.n = w.n ∧ v.i = w.i) : ActsOk c rest v where
  samples := hk ▸ h.samples
  firstSample hm := hk.trans (h.firstSample (List.mem_cons_of_mem _ hm))
  sampleLast := by
    have last := h.sampleLast
    cases rest with
    | nil => rfl
    | cons x xs =>
      rw [List.dropLast_cons_cons, List.all_cons, Bool.and_eq_true] at last
      exact last.2
  receiving hany := by
    obtain ⟨hall, hn, hi⟩ := h.receiving (by simp [hany])
    rw [List.all_cons, Bool.and_eq_true] at hall
    rw [(hr hany).1, (hr hany).2]
    exact ⟨hall.2, hn, hi⟩

/-- The head goes on as another act that takes no sample either. -/
theorem ActsOk.replace (h : ActsOk c (a :: rest) w) (hb : b.samples = false)
    (hr : b.receives = a.receives) (hs : b.sends = a.sends) (hk : v.k = w.k)
    (hv : (b :: rest).any Act.receives = true → v.n ≠ 0 ∧ v.i.toNat + v.n.toNat ≤ c.bufBytes) :
    ActsOk c (b :: rest) v where
  samples := hk ▸ h.samples
  firstSample hm := by
    rcases List.mem_cons.1 hm with rfl | hm
    · cases hb
    · exact hk.trans (h.firstSample (List.mem_cons_of_mem _ hm))
  sampleLast := by
    have last := h.sampleLast
    cases rest with
    | nil => rfl
    | cons x xs =>
      rw [List.dropLast_cons_cons, List.all_cons, Bool.and_eq_true] at last ⊢
      exact ⟨by simp [hb], last.2⟩
  receiving hany := by
    have hany' : (a :: rest).any Act.receives = true := by simpa [hr] using hany
    have hall := (h.receiving hany').1
    refine ⟨?_, hv hany⟩
    simpa [hr, hs] using hall

/-- One status sample more. -/
theorem ActsOk.sampleNext (hk : v.k ≤ 100) : ActsOk c [.sampleNext] v where
  samples := hk
  firstSample hm := by simp at hm
  sampleLast := rfl
  receiving hr := by cases hr

end

/-! ### BUF (R55) -/

/-- The invariant's clauses about BUF. -/
structure BufOk (c : Config) (m : Memory) : Prop where
  wf : m.wf
  bound : ∀ x ∈ m, x.1 < c.bufBytes

theorem BufOk.write {c : Config} {m : Memory} (h : BufOk c m) {j : Nat} (hj : j < c.bufBytes) (b : Byte) :
    BufOk c (m.write j b) where
  wf := Memory.write_wf h.wf j b
  bound x hx := by
    rcases Memory.mem_write hx with rfl | hx
    · exact hj
    · exact h.bound x hx

theorem BufOk.writeList {c : Config} {m : Memory} (h : BufOk c m) {j : Nat} {bs : List Byte}
    (hj : j + bs.length ≤ c.bufBytes) : BufOk c (m.writeList j bs) where
  wf := Memory.writeList_wf h.wf j bs
  bound x hx := by
    rcases Memory.mem_writeList hx with ⟨-, hx⟩ | hx
    · omega
    · exact h.bound x hx

/-! ### What a running command still has to run (R172, R219) -/

/-- The invariant's clauses about the statements still to be run. -/
structure TodoOk (todo : List Stmt) (locked : Bool) : Prop where
  closes : todo.any Stmt.closes = true
  plain : todo.all Stmt.plain = true
  resolving : todo.any Stmt.resolves = true → locked = false

section
variable {x : Stmt} {todo rest : List Stmt} {locked : Bool}

theorem TodoOk.head_plain (h : TodoOk (x :: rest) locked) : x.plain = true := by
  have plain := h.plain
  rw [List.all_cons, Bool.and_eq_true] at plain
  exact plain.1

theorem TodoOk.tail_plain (h : TodoOk (x :: rest) locked) : rest.all Stmt.plain = true := by
  have plain := h.plain
  rw [List.all_cons, Bool.and_eq_true] at plain
  exact plain.2

theorem TodoOk.tail (h : TodoOk (x :: rest) locked) (hx : x.closes = false) : TodoOk rest locked where
  closes := by simpa [hx] using h.closes
  plain := h.tail_plain
  resolving hr := h.resolving (by simp [hr])

theorem TodoOk.cons (h : TodoOk rest locked) (hp : x.plain = true) (hr : x.resolves = false) :
    TodoOk (x :: rest) locked where
  closes := by simp [h.closes]
  plain := by simp only [List.all_cons, hp, h.plain, Bool.and_self]
  resolving hany := h.resolving (by simpa [hr] using hany)

theorem TodoOk.complete {e : ErrCode} (he : e ≠ .timeout) : TodoOk [.complete e] locked where
  closes := rfl
  plain := by simp [Stmt.plain, he]
  resolving hr := by cases hr

end

/-! ### The invariant after each kind of change -/

section
variable {s u : State} {t : Txn} {acts : List Act} {todo : List Stmt} {w : Work} {m : Memory} {l : Byte}

theorem Inv.actsOk (h : Inv s) : ActsOk s.cfg s.phase.acts s.work :=
  ⟨h.samples, h.firstSample, h.sampleLast, h.receiving⟩

theorem Inv.bufOk (h : Inv s) : BufOk s.cfg s.buf := ⟨h.bufWf, h.bufBound⟩

theorem Inv.todoOk (h : Inv s) (hb : s.busy = true) (hp : s.phase ≠ .run .start) :
    TodoOk s.phase.todo s.profileLocked :=
  ⟨h.closes hb hp, h.plain, h.resolving⟩

/-- The bus is free and a transaction is opened. -/
theorem Inv.opened (h : Inv s) (hb : s.busy = true) (hc : s.cs = false) (ha : ActsOk s.cfg acts w)
    (ht : TodoOk todo s.profileLocked) (j : Addr) :
    Inv { s with cs := true, history := s.history ++ [.sel], flash := s.flash.select,
                 phase := .run (.wire t acts todo), work := w, jedecId := j } :=
  { h with
    csWire := rfl
    bus := by rw [busScan_append false false _ _ (hc ▸ h.bus)]; rfl
    idleBlank := nofun
    busyNotDone := fun _ => h.busyNotDone hb
    samples := ha.samples
    firstSample := ha.firstSample
    sampleLast := ha.sampleLast
    receiving := ha.receiving
    closes := fun _ _ => ht.closes
    plain := ht.plain
    resolving := ht.resolving
    flashWf := flash_select_wf h.flashWf }

/-- A byte goes over the bus inside a transaction. -/
theorem Inv.exchanged (h : Inv s) (hb : s.busy = true) (hc : s.cs = true) (ha : ActsOk s.cfg acts w)
    (ht : TodoOk todo s.profileLocked) (hm : BufOk s.cfg m)
    (o : Byte) :
    Inv { s with history := s.history ++ [.xfer o (s.flash.answer s.cfg o).1],
                 flash := (s.flash.answer s.cfg o).2, phase := .run (.wire t acts todo), work := w,
                 buf := m, lastStatus := l } :=
  { h with
    bufWf := hm.wf
    bufBound := hm.bound
    csWire := hc
    bus := by rw [busScan_append false true _ _ (hc ▸ h.bus), hc]; rfl
    idleBlank := nofun
    busyNotDone := fun _ => h.busyNotDone hb
    samples := ha.samples
    firstSample := ha.firstSample
    sampleLast := ha.sampleLast
    receiving := ha.receiving
    closes := fun _ _ => ht.closes
    plain := ht.plain
    resolving := ht.resolving
    flashWf := answer_wf h.flashWf o }

/-- A transaction ends. -/
theorem Inv.deselected (h : Inv s) (hb : s.busy = true) (hc : s.cs = true) (hk : w.k ≤ 100)
    (ht : TodoOk todo s.profileLocked) (hm : BufOk s.cfg m) :
    Inv { s with cs := false, history := s.history ++ [.desel], flash := s.flash.deselect s.cfg,
                 phase := .run (.at todo), work := w, buf := m, lastStatus := l } :=
  { h with
    bufWf := hm.wf
    bufBound := hm.bound
    csWire := rfl
    bus := by rw [busScan_append false true _ _ (hc ▸ h.bus)]; rfl
    idleBlank := nofun
    busyNotDone := fun _ => h.busyNotDone hb
    samples := hk
    firstSample := nofun
    sampleLast := rfl
    receiving := nofun
    closes := fun _ _ => ht.closes
    plain := ht.plain
    resolving := ht.resolving
    flashWf := flash_deselect_wf h.flashWf }

/-- The poller gives a window. -/
theorem Inv.windowed (h : Inv s) (hb : s.busy = true) (hc : s.cs = false) (hk : w.k ≤ 100)
    (ht : TodoOk todo s.profileLocked) (r : Word) :
    Inv { s with history := s.history ++ [.window], phase := .run (.at todo), work := w,
                 restarts := r } :=
  { h with
    csWire := hc
    bus := by rw [busScan_append false false _ _ (hc ▸ h.bus), hc]; rfl
    idleBlank := nofun
    busyNotDone := fun _ => h.busyNotDone hb
    samples := hk
    firstSample := nofun
    sampleLast := rfl
    receiving := nofun
    closes := fun _ _ => ht.closes
    plain := ht.plain
    resolving := ht.resolving }

/-- The command completes. -/
theorem Inv.completed (h : Inv s) (hc : s.cs = false) (e : ErrCode) (n : Half) :
    Inv { s with err := e, done := true, phase := .idle, work := Work.blank, count := n } :=
  { h with
    csWire := hc
    idleBlank := fun _ => rfl
    busyNotDone := nofun
    samples := Nat.zero_le _
    firstSample := nofun
    sampleLast := rfl
    receiving := nofun
    closes := nofun
    plain := rfl
    resolving := nofun }

/-- A DETECT commits a profile and completes. -/
theorem Inv.committed (h : Inv s) (hc : s.cs = false) {p : Profile} {unknown : Bool}
    (hu : unknown = true ↔ p.family = .unknown) (hd : p.family ≠ .default) (j : Addr) (id : Word) :
    Inv { s with err := .ok, done := true, phase := .idle, work := Work.blank, profile := p,
                 usableSectors := satSub p.sectors s.cfg.reservedSectors, unknownDev := unknown,
                 profileLocked := true, jedecId := j, legacyId := id } :=
  { h.completed hc .ok s.count with
    usable := rfl
    unknown := hu
    unlocked := nofun
    locked := fun _ => hd
    resolving := nofun }

end

/-! ### The next event of a transaction keeps the invariant -/

theorem setId_counters (w : Work) (slot : IdSlot) (r : Byte) :
    (w.setId slot r).k = w.k ∧ (w.setId slot r).n = w.n ∧ (w.setId slot r).i = w.i := by
  cases slot <;> exact ⟨rfl, rfl, rfl⟩

section
variable {s u : State} {t : Txn} {acts rest : List Act} {todo : List Stmt} {w : Work} {m : Memory}
  {l : Byte}
variable (h : Inv s) (hb : s.busy = true) (hc : s.cs = true) (ht : TodoOk todo s.profileLocked)
  (hm : BufOk s.cfg m)
include h hb hc ht hm

/-- An Xfer, after the updates that belong to its step (R164). -/
theorem Inv.xfer {o : Byte} {k : Byte → State → State} {q : Byte → List Act} {g : Byte → Work → Work}
    (hk : ∀ r s1, k r s1 = { s1 with work := g r s1.work, phase := .run (.wire t (q r) todo) })
    (ha : ∀ r, ActsOk s.cfg (q r) (g r w))
    (hu : xfer o k { s with work := w, buf := m, lastStatus := l } = .next u) : Inv u := by
  obtain ⟨-, rfl⟩ := xfer_eq_next.1 hu
  rw [hk]
  exact h.exchanged hb hc (ha _) ht hm o

theorem Inv.deselect (hk : w.k ≤ 100)
    (hu : deselect todo { s with work := w, buf := m, lastStatus := l } = .next u) : Inv u := by
  obtain ⟨-, rfl⟩ := deselect_eq_next.1 hu
  exact h.deselected hb hc hk ht hm

theorem Inv.sendChunkByte {two : Bool} (ha : ActsOk s.cfg (.chunkNext two :: rest) w)
    (hu : sendChunkByte two t rest todo { s with work := w, buf := m, lastStatus := l } = .next u) :
    Inv u := by
  unfold Machine.sendChunkByte at hu
  split at hu
  · cases hu
  · exact h.xfer hb hc ht hm (q := fun _ => .chunkNext two :: rest) (g := fun _ w => w)
      (fun _ _ => rfl) (fun _ => ha) hu

theorem Inv.sample (hk : w.k < 100)
    (hu : sample t [] todo { s with work := w, buf := m, lastStatus := l } = .next u) : Inv u :=
  h.xfer hb hc ht hm (q := fun _ => [.sampleNext]) (g := fun r w => { w with s := r, k := w.k + 1 })
    (fun _ _ => rfl) (fun _ => .sampleNext (v := { w with s := _, k := w.k + 1 }) hk) hu

theorem Inv.receive {delim : Bool} (ha : ∀ r, ActsOk s.cfg (.recvNext delim r :: rest) w)
    (hu : receive delim t rest todo { s with work := w, buf := m, lastStatus := l } = .next u) : Inv u :=
  h.xfer hb hc ht hm (q := fun r => .recvNext delim r :: rest) (g := fun _ w => w)
    (fun _ _ => rfl) ha hu

end

/-- A transaction's next event, by the act that stands first. -/
theorem Inv.wireStep {s u : State} {t : Txn} {acts : List Act} {todo : List Stmt} (h : Inv s)
    (hp : s.phase = .run (.wire t acts todo)) (hu : wireStep t acts todo s = .next u) : Inv u := by
  have hb : s.busy = true := by simp only [State.busy, hp]
  have hc : s.cs = true := by rw [h.csWire, hp]; rfl
  have ha : ActsOk s.cfg acts s.work := by
    have ok := h.actsOk
    rwa [hp] at ok
  have ht : TodoOk todo s.profileLocked := by
    have ok := h.todoOk hb (by simp [hp])
    rwa [hp] at ok
  have hk := ha.samples
  cases acts with
  | nil => exact h.deselect hb hc ht h.bufOk (w := s.work) (l := s.lastStatus) hk hu
  | cons a rest =>
    cases a <;> simp only [Machine.wireStep] at hu
    case send o =>
      exact h.xfer hb hc ht h.bufOk (q := fun _ => rest) (g := fun _ w => w) (fun _ _ => rfl)
        (fun _ => ha.tail rfl fun _ => ⟨rfl, rfl⟩) hu
    case sendBuf j m =>
      have none := ha.none_receives rfl rfl
      split at hu
      · cases hu
      · refine h.xfer hb hc ht h.bufOk (q := fun _ => _) (g := fun _ w => w) (fun _ _ => rfl)
          (fun _ => ?_) hu
        split
        · exact ha.tail rfl fun _ => ⟨rfl, rfl⟩
        · exact ha.replace rfl rfl rfl rfl fun hr => absurd hr none
    case chunkFirst two =>
      have none := ha.none_receives rfl rfl
      exact h.sendChunkByte hb hc ht h.bufOk (ha.replace rfl rfl rfl rfl fun hr => absurd hr none) hu
    case chunkNext two =>
      have none := ha.none_receives rfl rfl
      split at hu
      · exact h.deselect hb hc ht h.bufOk (w := (chunkSent s).work) hk hu
      split at hu
      · exact h.xfer hb hc ht h.bufOk (w := (chunkSent s).work) (q := fun _ => rest)
          (g := fun _ w => w) (fun _ _ => rfl) (fun _ => ha.tail rfl fun hr => absurd hr none) hu
      · exact h.sendChunkByte hb hc ht h.bufOk (w := (chunkSent s).work) (two := false)
          (ha.replace rfl rfl rfl rfl fun hr => absurd hr none) hu
    case recvId slot =>
      refine h.xfer hb hc ht h.bufOk (q := fun _ => rest) (g := fun r w => w.setId slot r) (fun _ _ => rfl)
        (fun r => ?_) hu
      obtain ⟨hk, hn, hi⟩ := setId_counters s.work slot r
      exact ha.tail hk fun _ => ⟨hn, hi⟩
    case sampleFirst =>
      obtain rfl := ha.nil_of_samples rfl
      have first := ha.firstSample (List.mem_singleton.2 rfl)
      exact h.sample hb hc ht h.bufOk (w := s.work) (by omega) hu
    case sampleNext =>
      obtain rfl := ha.nil_of_samples rfl
      split at hu
      · exact h.deselect hb hc ht h.bufOk (l := s.work.s) hk hu
      · rename_i hmore
        have hk : s.work.k < 100 := Nat.lt_of_not_le fun hle => hmore (.inr hle)
        exact h.sample hb hc ht h.bufOk (w := s.work) (l := s.work.s) hk hu
    case recvFirst delim =>
      obtain ⟨-, hn, hi⟩ := ha.receiving rfl
      exact h.receive hb hc ht h.bufOk (fun r => ha.replace rfl rfl rfl rfl fun _ => ⟨hn, hi⟩) hu
    case recvNext delim p =>
      obtain ⟨-, hn, hi⟩ := ha.receiving rfl
      have stored : BufOk s.cfg (storeData p s).buf := h.bufOk.write (by bv_omega) _
      split at hu
      · exact h.deselect hb hc ht stored (w := (storeData p s).work) hk hu
      · rename_i hmore
        have left : s.work.n - 1 ≠ 0 := fun hn => hmore (.inl hn)
        have fits : (s.work.i + 1).toNat + (s.work.n - 1).toNat ≤ s.cfg.bufBytes := by bv_omega
        exact h.receive hb hc ht stored (w := (storeData p s).work)
          (fun r => ha.replace rfl rfl rfl rfl fun _ => ⟨left, fits⟩) hu

end Sys2Proof.Machine

/-! ## Proofs: the invariant between transactions (spec/40_dispatch.md R164) -/

namespace Sys2Proof.Machine

open Sys2Proof

/-! ### A transaction as it is opened (R131) -/

theorem sends_quiet (os : List Byte) : (os.map Act.send).all Act.quiet = true := by
  simp [Act.quiet, Act.samples, Act.receives]

theorem frameActs_quiet (op : Byte) (a : Addr) : (frameActs op a).all Act.quiet = true := by
  rw [frameActs_eq_sends]
  exact sends_quiet _

theorem chunkActs_quiet (u : WriteUnit) : (chunkActs u).all Act.quiet = true := by
  cases u <;> rfl

theorem Txn.acts_quiet {t : Txn} (h : t.plain = true) (c : Config) (p : Profile) (w : Work) :
    (t.acts c p w).all Act.quiet = true := by
  obtain ⟨op, fmt⟩ := t
  cases fmt with
  | read | fread | rdsr => cases h
  | t1 | wrsr | rdid => rfl
  | se a => exact frameActs_quiet op a
  | pp a i0 m => simp only [Txn.acts, List.all_append, frameActs_quiet, Bool.true_and]; rfl
  | aai1 => simp only [Txn.acts, List.all_append, frameActs_quiet, chunkActs_quiet, Bool.and_self]
  | aaiN => exact chunkActs_quiet p.unit
  | lid =>
    simp only [Txn.acts, List.cons_append, List.all_cons, List.all_append, sends_quiet, Bool.true_and]
    rfl

/-- A burst, no sample taken yet. -/
theorem ActsOk.rdsr {c : Config} {p : Profile} {w : Work} (hk : w.k = 0) :
    ActsOk c (rdsrTxn.acts c p w) w where
  samples := by omega
  firstSample _ := hk
  sampleLast := rfl
  receiving hr := by cases hr

/-- A read of bytes that fit in BUF (R340, R401). -/
theorem ActsOk.read {c : Config} {p : Profile} {a : Addr} {delim : Bool} {w : Work} (hk : w.k ≤ 100)
    (hn : w.n ≠ 0) (hfit : w.i.toNat + w.n.toNat ≤ c.bufBytes) :
    ActsOk c ((readTxn p a delim).acts c p w) w := by
  rw [readTxn_acts]
  refine ⟨hk, fun hm => ?_, ?_, fun _ => ⟨?_, hn, hfit⟩⟩
  · simp at hm
  · simp [Act.samples]
  · simp [Act.sends, Act.receives]

/-! ### The pseudocode between transactions keeps the invariant -/

/-- An exhausted burst ends the wait at the bound, or gives a window. -/
theorem pollRestart_next {rest : List Stmt} {s u : State} (h : pollRestart rest s = .next u) :
    (s.restartLimit ≠ 0 ∧ s.restartLimit.toNat ≤ s.work.bursts + 1 ∧
      abort .timeout { s with work := { s.work with bursts := s.work.bursts + 1 } } = .next u) ∨
    window (.pollBurst :: rest)
      { s with work := { s.work with bursts := s.work.bursts + 1 }, restarts := satIncr s.restarts } =
        .next u := by
  simp only [pollRestart] at h
  split at h
  · rename_i hbound
    exact .inl ⟨hbound.1, hbound.2, h⟩
  · exact .inr h

/-- A profile that a DETECT commits: FAMILY is not DEFAULT, and UNKNOWN exactly with the diagnostic (R217). -/
structure Committable (p : Profile) (unknown : Bool) : Prop where
  unknown : unknown = true ↔ p.family = .unknown
  known : p.family ≠ .default

theorem profileUnknown_committable (p : Profile) : Committable (profileUnknown p) true :=
  ⟨by simp [profileUnknown], nofun⟩

theorem profileLegacy_committable (c : Config) (p : Profile) : Committable (profileLegacy c p) false :=
  ⟨by simp [profileLegacy], nofun⟩

theorem identify_found_committable {c : Config} {m d x : Byte} {p : Profile}
    (h : identify c m d x = .found p) : Committable p false := by
  unfold identify at h
  iterate 4
    split at h
    · cases h
      exact ⟨by simp [profileA, profileB, profileC1, profileC2], nofun⟩
  split at h
  · cases h
  · cases h

/-- DETECT after its identification transaction commits a profile, or opens the fallback's. -/
theorem resolveId_next {rest : List Stmt} {s u : State} (h : resolveId rest s = .next u) :
    (∃ p unknown, Committable p unknown ∧ complete .ok (commitProfile p unknown
      { s with jedecId := joinId s.work.id0 s.work.id1 s.work.id2 }) = .next u) ∨
    beginTxn (lidTxn s.cfg) (.resolveLegacy :: rest)
      { s with jedecId := joinId s.work.id0 s.work.id1 s.work.id2 } = .next u := by
  simp only [resolveId] at h
  split at h
  · rename_i hp
    exact .inl ⟨_, false, identify_found_committable hp, h⟩
  · exact .inl ⟨_, true, profileUnknown_committable _, h⟩
  · exact .inr h

theorem resolveLegacy_next {s u : State} (h : resolveLegacy s = .next u) :
    ∃ p unknown, Committable p unknown ∧ complete .ok (commitProfile p unknown
      { s with legacyId := joinLegacyId s.work.lid0 s.work.lid1 s.work.lid2 s.work.lid3 }) = .next u := by
  simp only [resolveLegacy] at h
  split at h
  · exact ⟨_, false, profileLegacy_committable _ _, h⟩
  · exact ⟨_, true, profileUnknown_committable _, h⟩

theorem TodoOk.chunkStmts {rest : List Stmt} {locked : Bool} (h : TodoOk rest locked) (p : Profile) :
    TodoOk (chunkStmts p ++ rest) locked :=
  ((h.cons rfl rfl).cons rfl rfl).cons rfl rfl

theorem Inv.commits {s u : State} (h : Inv s) (hc : s.cs = false) {p : Profile} {unknown : Bool}
    {w : Work} {j : Addr} {l : Word} (hp : Committable p unknown)
    (hu : complete .ok (commitProfile p unknown { s with work := w, jedecId := j, legacyId := l }) =
      .next u) : Inv u := by
  obtain ⟨-, rfl⟩ := complete_eq_next.1 hu
  exact h.committed hc hp.unknown hp.known j l

theorem Inv.resolveLegacy {s u : State} (h : Inv s) (hc : s.cs = false) {w : Work}
    (hu : resolveLegacy { s with work := w } = .next u) : Inv u := by
  obtain ⟨p, unknown, hp, hu⟩ := resolveLegacy_next hu
  exact h.commits hc hp hu

section
variable {s u : State} {rest todo : List Stmt} {w : Work}
variable (h : Inv s) (hb : s.busy = true) (hc : s.cs = false)
include h hb hc

theorem Inv.beginTxn {t : Txn} {j : Addr} (hplain : t.plain = true) (hk : w.k ≤ 100)
    (ht : TodoOk rest s.profileLocked)
    (hu : beginTxn t rest { s with work := w, jedecId := j } = .next u) : Inv u := by
  obtain ⟨-, rfl⟩ := beginTxn_eq_next.1 hu
  exact h.opened hb hc (.of_quiet hk (Txn.acts_quiet hplain _ _ _)) ht j

theorem Inv.beginBurst (ht : TodoOk rest s.profileLocked)
    (hu : beginBurst rest { s with work := w } = .next u) : Inv u := by
  obtain ⟨-, rfl⟩ := beginTxn_eq_next.1 hu
  exact h.opened hb hc (.rdsr (w := { w with k := 0 }) rfl) (ht.cons rfl rfl) s.jedecId

theorem Inv.pollRestart (hk : w.k ≤ 100) (ht : TodoOk rest s.profileLocked)
    (hu : pollRestart rest { s with work := w } = .next u) : Inv u := by
  obtain ⟨-, -, hu⟩ | hu := pollRestart_next hu
  · rw [abort_free (by exact hc)] at hu
    cases hu
    exact h.completed hc .timeout s.count
  · cases hu
    exact h.windowed hb hc (w := { w with bursts := w.bursts + 1 }) hk (ht.cons rfl rfl) _

theorem Inv.resolveId (hk : w.k ≤ 100) (ht : TodoOk (.resolveId :: rest) s.profileLocked)
    (hu : resolveId rest { s with work := w } = .next u) : Inv u := by
  obtain ⟨p, unknown, hp, hu⟩ | hu := resolveId_next hu
  · exact h.commits hc hp hu
  · exact h.beginTxn hb hc (rest := .resolveLegacy :: rest) (w := w) rfl hk
      ⟨rfl, ht.tail_plain, fun _ => ht.resolving rfl⟩ hu

theorem Inv.resume (ht : TodoOk todo s.profileLocked) (hk : w.k ≤ 100)
    (hu : resume todo { s with work := w } = .next u) : Inv u := by
  induction todo generalizing w with
  | nil => cases hu
  | cons x rest ih =>
    cases x <;> simp only [Machine.resume] at hu
    case txn t => exact h.beginTxn hb hc ht.head_plain hk (ht.tail rfl) hu
    case waitReady => exact h.beginBurst hb hc (ht.tail rfl) (w := { w with bursts := 0 }) hu
    case pollEnd =>
      split at hu
      · exact ih (ht.tail rfl) hk hu
      · exact h.pollRestart hb hc hk (ht.tail rfl) hu
    case pollBurst => exact h.beginBurst hb hc (ht.tail rfl) hu
    case resolveId => exact h.resolveId hb hc hk ht hu
    case resolveLegacy => exact h.resolveLegacy hc hu
    case aaiAdvance =>
      split at hu
      · exact ih (ht.tail rfl) (w := w.advanced) hk hu
      · exact h.beginTxn hb hc rfl (w := w.advanced) hk ((ht.tail rfl).chunkStmts _) hu
    case aaiLoop =>
      split at hu
      · exact h.beginTxn hb hc rfl hk (ht.tail rfl) hu
      · exact h.beginTxn hb hc rfl hk (((ht.tail rfl).cons rfl rfl).cons rfl rfl) hu
    case finishRead =>
      obtain ⟨-, rfl⟩ := complete_eq_next.1 hu
      exact h.completed hc .ok _
    case finishDelim =>
      obtain ⟨-, rfl⟩ := complete_eq_next.1 hu
      exact h.completed hc .ok _
    case complete e =>
      obtain ⟨-, rfl⟩ := complete_eq_next.1 hu
      exact h.completed hc e s.count

end

end Sys2Proof.Machine

/-! ## Proofs: the invariant from a command's start on, and for every agent (spec/00_scope.md R18) -/

namespace Sys2Proof.Machine

open Sys2Proof

/-! ### A command's start keeps the invariant -/

/-- A program whose statements may all stand in a statement list. -/
structure Program.Ordinary (p : Program) (s : State) : Prop where
  todo : TodoOk (p s).2 s.profileLocked
  samples : (p s).1.k = s.work.k

theorem Program.Ordinary.of_eq {p : Program} {s : State} {w : Work} {todo : List Stmt}
    (h : p s = (w, todo)) (ht : TodoOk todo s.profileLocked) (hk : w.k = s.work.k) : p.Ordinary s :=
  ⟨by rw [h]; exact ht, by rw [h]; exact hk⟩

theorem TodoOk.programDirect {rest : List Stmt} {locked : Bool} (h : TodoOk rest locked) (c : Config)
    (a : Addr) (i0 m : Nat) : TodoOk (Machine.programDirect c a i0 m ++ rest) locked :=
  (((h.cons rfl rfl).cons rfl rfl).cons rfl rfl).cons rfl rfl

theorem TodoOk.programAai {rest : List Stmt} {locked : Bool} (h : TodoOk rest locked) (c : Config)
    (p : Profile) (a : Addr) : TodoOk (Machine.programAai c p a ++ rest) locked := by
  have body : TodoOk ((if oddStart p a then Machine.programDirect c a 0 1 ++ [.aaiAdvance]
      else .txn (wrenTxn c) :: Machine.chunkStmts p) ++ rest) locked := by
    split
    · rw [List.append_assoc]
      exact (h.cons rfl rfl).programDirect c a 0 1
    · exact (h.chunkStmts p).cons rfl rfl
  rw [Machine.programAai, List.append_assoc]
  split
  · exact body.cons rfl rfl
  · exact body

theorem writeProgram_direct {s : State} (haai : s.profile.aai = false)
    (hfit : s.work.opLen.toNat ≤ s.cfg.bufBytes) (hne : s.work.opLen ≠ 0) :
    writeProgram s =
      (s.work, programDirect s.cfg s.work.opAddr 0 s.work.opLen.toNat ++ [.complete .ok]) := by
  rw [writeProgram, if_neg (Nat.not_lt.2 hfit), if_neg hne, if_neg (by simp [haai])]

theorem writeProgram_ordinary (s : State) : Program.Ordinary writeProgram s := by
  have last : TodoOk [.complete .ok] s.profileLocked := .complete nofun
  by_cases hlong : s.cfg.bufBytes < s.work.opLen.toNat
  · exact .of_eq (writeProgram_too_long hlong) (.complete nofun) rfl
  by_cases hempty : s.work.opLen = 0
  · exact .of_eq (writeProgram_empty hempty) last rfl
  cases haai : s.profile.aai with
  | true =>
    exact .of_eq (writeProgram_aai haai (Nat.not_lt.1 hlong) hempty) (last.programAai _ _ _) rfl
  | false =>
    exact .of_eq (writeProgram_direct haai (Nat.not_lt.1 hlong) hempty)
      (last.programDirect _ _ _ _) rfl

theorem detectProgram_ordinary (s : State) : Program.Ordinary detectProgram s := by
  cases hl : s.profileLocked with
  | true => exact .of_eq (todo := [.complete .locked]) (by simp [detectProgram, hl]) (.complete nofun) rfl
  | false =>
    exact .of_eq (todo := [.txn (rdidTxn s.cfg), .resolveId]) (by simp [detectProgram, hl])
      ⟨rfl, rfl, fun _ => hl⟩ rfl

theorem protectProgram_ordinary (arg : Bool) (s : State) : Program.Ordinary (protectProgram arg) s := by
  refine ⟨?_, rfl⟩
  simp only [protectProgram]
  split
  · exact ⟨rfl, rfl, nofun⟩
  · exact ⟨rfl, rfl, nofun⟩

section
variable {s u : State} (h : Inv s) (hp : s.phase = .run .start)
include h hp

theorem Inv.start_ordinary {p : Program} (hprog : p.Ordinary s)
    (hu : Machine.resume (p s).2 { s with work := (p s).1 } = .next u) : Inv u :=
  h.resume (by simp only [State.busy, hp]) (by rw [h.csWire, hp]; rfl) hprog.todo
    (Nat.le_trans (Nat.le_of_eq hprog.samples) h.samples) hu

/-- A read's program is the one that starts with a read transaction, of bytes that fit in BUF. -/
theorem Inv.start_read {delim : Bool} {last : Stmt} (hlast : TodoOk [last] s.profileLocked)
    (hu : Machine.resume (readProgram delim last s).2 { s with work := (readProgram delim last s).1 } =
      .next u) : Inv u := by
  have hb : s.busy = true := by simp only [State.busy, hp]
  have hc : s.cs = false := by rw [h.csWire, hp]; rfl
  by_cases hlong : s.cfg.bufBytes < s.work.opLen.toNat
  · exact h.start_ordinary hp (.of_eq (readProgram_too_long delim last hlong) (.complete nofun) rfl) hu
  by_cases hempty : s.work.opLen = 0
  · exact h.start_ordinary hp (.of_eq (readProgram_empty delim last hempty) (.complete nofun) rfl) hu
  have hfit : s.work.opLen.toNat ≤ s.cfg.bufBytes := Nat.not_lt.1 hlong
  rw [readProgram_fits hfit hempty] at hu
  obtain ⟨-, rfl⟩ := beginTxn_eq_next.1 hu
  exact h.opened hb hc (.read (w := s.work.readArgs) h.samples hempty (by simpa [Work.readArgs] using hfit))
    hlast s.jedecId

theorem Inv.start {i : Instr} {p : Program} (hi : programOf i = some p)
    (hu : Machine.resume (p s).2 { s with work := (p s).1 } = .next u) : Inv u := by
  cases i <;> cases hi
  case detect => exact h.start_ordinary hp (detectProgram_ordinary s) hu
  case setProtect arg => exact h.start_ordinary hp (protectProgram_ordinary arg s) hu
  case waitReady => exact h.start_ordinary (p := waitProgram) hp ⟨⟨rfl, rfl, nofun⟩, rfl⟩ hu
  case eraseSector => exact h.start_ordinary (p := eraseSectorProgram) hp ⟨⟨rfl, rfl, nofun⟩, rfl⟩ hu
  case eraseAll => exact h.start_ordinary (p := eraseAllProgram) hp ⟨⟨rfl, rfl, nofun⟩, rfl⟩ hu
  case write => exact h.start_ordinary hp (writeProgram_ordinary s) hu
  case writeByte => exact h.start_ordinary (p := writeByteProgram) hp ⟨⟨rfl, rfl, nofun⟩, rfl⟩ hu
  case read => exact h.start_read (last := .finishRead) hp ⟨rfl, rfl, nofun⟩ hu
  case readDelim => exact h.start_read (last := .finishDelim) hp ⟨rfl, rfl, nofun⟩ hu

end

/-! ### Every agent's move keeps the invariant (R18) -/

theorem Inv.seqStep {s u : State} (h : Inv s) (hb : s.busy = true) (hu : seqStep s = .next u) :
    Inv u := by
  rcases seqStep_next hb hu with ⟨t, acts, todo, hp, hu⟩ | ⟨todo, hp, hu⟩ | ⟨p, hp, hprog, hu⟩
  · exact h.wireStep hp hu
  · have ht := h.todoOk hb (by simp [hp])
    rw [hp] at ht
    exact h.resume hb (by rw [h.csWire, hp]; rfl) ht (w := s.work) h.samples hu
  · rcases hprog with rfl | ⟨i, -, hi⟩
    · exact h.start_ordinary (p := illegalProgram) hp ⟨.complete nofun, rfl⟩ hu
    · exact h.start hp hi hu

theorem idle_of_busy_eq_false {s : State} (h : s.busy = false) : s.phase = .idle := by
  rcases busy_or_idle s with hb | hp
  · cases h.symm.trans hb
  · exact hp

theorem Inv.hostMoved {s u : State} (h : Inv s) (hu : HostMoved s u) : Inv u := by
  cases hu with
  | side d hd hu =>
    rw [hu]
    refine { h with busyNotDone := fun hb => ?_ }
    obtain ⟨hdone, herr⟩ := h.busyNotDone hb
    exact ⟨Bool.eq_false_iff.2 fun hd' => by simp [hd hd'] at hdone, herr⟩
  | limits l hidle hu =>
    rw [hu]
    exact { h with }
  | accepts v hidle hu =>
    have hp := idle_of_busy_eq_false hidle
    rw [hu]
    exact
      { h with
        csWire := h.csWire.trans (by rw [hp]; rfl)
        idleBlank := nofun
        busyNotDone := fun _ => ⟨rfl, rfl⟩
        samples := Nat.zero_le _
        firstSample := nofun
        sampleLast := rfl
        receiving := nofun
        closes := fun _ hstart => absurd rfl hstart
        plain := rfl
        resolving := nofun }
  | stores j v hidle hj hu =>
    have legal := h.legal
    simp only [Config.legal, Bool.and_eq_true] at legal
    obtain ⟨⟨⟨-, hbuf⟩, -⟩, -⟩ := legal
    have stored : BufOk s.cfg (s.buf.writeList j (wordBytes v)) := h.bufOk.writeList (hj hbuf)
    rw [hu]
    exact { h with bufWf := stored.wf, bufBound := stored.bound }

theorem Inv.popTurn {s : State} (h : Inv s) : Inv s.popTurn := h.hostMoved (.of_onto rfl)

theorem inv_resetOf {c : Config} (h : c.legal = true) : Inv (State.resetOf c) where
  legal := h
  bufWf := List.Pairwise.nil
  bufBound := nofun
  csWire := rfl
  bus := rfl
  idleBlank _ := rfl
  busyNotDone := nofun
  samples := Nat.zero_le _
  firstSample := nofun
  sampleLast := rfl
  receiving := nofun
  closes := nofun
  plain := rfl
  usable := rfl
  unknown := ⟨nofun, nofun⟩
  unlocked _ := rfl
  locked := nofun
  resolving := nofun
  flashWf := trivial

theorem Inv.resetAction {s : State} (h : Inv s) : Inv (resetAction s) := by
  have bus := h.bus
  refine { inv_resetOf h.legal with bus := ?_, flashWf := ?_ }
  · cases hc : s.cs with
    | true =>
      simp only [Machine.resetAction, hc, if_true]
      rw [busScan_append false true _ _ (hc ▸ bus)]
      rfl
    | false => simpa [Machine.resetAction, hc] using! bus
  · simp only [Machine.resetAction]
    split
    · exact flash_deselect_wf h.flashWf
    · exact h.flashWf

/-- Settles O20: at reset every clause is about empty lists and the default profile. -/
theorem invariantAtReset : Obligations.InvariantAtReset := by
  unfold Obligations.InvariantAtReset
  exact ⟨fun c h => inv_resetOf h, inv_resetOf (by decide)⟩

/-- Settles O21: each agent's move keeps the invariant. -/
theorem invariantKept : Obligations.InvariantKept := by
  unfold Obligations.InvariantKept
  intro s t h hstep
  rcases step_next hstep with ⟨-, hu⟩ | ⟨-, hb, hu⟩ | ⟨-, -, rfl⟩ | ⟨-, rfl⟩
  · exact h.popTurn.hostMoved (hostStep_moved hu)
  · exact h.popTurn.seqStep hb hu
  · exact h.popTurn
  · exact h.popTurn.resetAction

end Sys2Proof.Machine

/-! ## Proofs: what the invariant excludes (spec/60_exceptions.md, spec/43_wait.md, spec/41_detect.md) -/

namespace Sys2Proof.Machine

open Sys2Proof

/-! ### Every step answers, or stops at an unwritten BUF byte (R411) -/

/-- A next state, or the fault of reading a byte that nothing has written in BUF as m. -/
def AnswersOrStops (m : Memory) (r : Res) : Prop :=
  (∃ u, r = .next u) ∨ ∃ i, r = .fault (.uninitBufRead i) ∧ m.read i = none

theorem AnswersOrStops.next (m : Memory) (u : State) : AnswersOrStops m (.next u) := .inl ⟨u, rfl⟩

theorem bufWord_total (m : Memory) (j : Nat) :
    (∃ v, bufWord m j = .ok v) ∨ ∃ i, bufWord m j = .error (.uninitBufRead i) ∧ m.read i = none := by
  cases h0 : m.read j with
  | none => exact .inr ⟨j, by simp only [bufWord, h0], h0⟩
  | some b0 =>
  cases h1 : m.read (j + 1) with
  | none => exact .inr ⟨j + 1, by simp only [bufWord, h0, h1], h1⟩
  | some b1 =>
  cases h2 : m.read (j + 2) with
  | none => exact .inr ⟨j + 2, by simp only [bufWord, h0, h1, h2], h2⟩
  | some b2 =>
  cases h3 : m.read (j + 3) with
  | none => exact .inr ⟨j + 3, by simp only [bufWord, h0, h1, h2, h3], h3⟩
  | some b3 => exact .inl ⟨wordOfBytes b0 b1 b2 b3, by simp only [bufWord, h0, h1, h2, h3]⟩

section
variable {s : State}

theorem hostRead_inside_idle {off : Offset} {j : Nat} (hidle : s.busy = false)
    (h : bufIndex s.cfg off = some j) :
    hostRead off s = (bufWord s.buf j).map fun v => (v, s) := by
  simp only [hostRead, h, hidle, Bool.false_eq_true, if_false]
  cases bufWord s.buf j <;> rfl

theorem hostRead_total (off : Offset) (s : State) :
    (∃ v t, hostRead off s = .ok (v, t)) ∨
      ∃ i, hostRead off s = .error (.uninitBufRead i) ∧ s.buf.read i = none := by
  cases hj : bufIndex s.cfg off with
  | none => exact .inl ⟨_, _, hostRead_outside hj⟩
  | some j =>
    cases hb : s.busy with
    | true => exact .inl ⟨_, _, hostRead_inside_busy hb hj⟩
    | false =>
      rw [hostRead_inside_idle hb hj]
      rcases bufWord_total s.buf j with ⟨v, h⟩ | ⟨i, h, hi⟩
      · exact .inl ⟨v, s, by rw [h]; rfl⟩
      · exact .inr ⟨i, by rw [h]; rfl, hi⟩

theorem hostAccess_answers (a : HostAccess) (s : State) : AnswersOrStops s.buf (hostAccess a s) := by
  cases a with
  | read off size =>
    simp only [hostAccess]
    split
    · rcases hostRead_total off s with ⟨v, t, h⟩ | ⟨i, h, hi⟩
      · rw [h]
        exact .next _ _
      · rw [h]
        exact .inr ⟨i, rfl, hi⟩
    · exact .next _ _
  | write off size v =>
    simp only [hostAccess]
    split
    · exact .next _ _
    · exact .next _ _

theorem pollRound_answers (off : Offset) (mask value : Word) (rest : List HostStmt) (s : State) :
    AnswersOrStops s.buf (pollRound off mask value rest s) := by
  unfold pollRound
  split
  · rcases hostRead_total off s with ⟨v, t, h⟩ | ⟨i, h, hi⟩
    · simp only [h]
      split
      · exact .next _ _
      · exact .next _ _
    · simp only [h]
      exact .inr ⟨i, rfl, hi⟩
  · exact .next _ _

theorem hostStep_answers (s : State) : AnswersOrStops s.buf (hostStep s) := by
  unfold hostStep
  split
  · exact .next _ _
  · exact hostAccess_answers _ { s with host := _ }
  · exact pollRound_answers _ _ _ _ s
  · split
    · exact hostAccess_answers _ { s with host := _ }
    · exact .next _ _
  · split
    · exact hostAccess_answers _ { s with host := _ }
    · exact .next _ _

theorem resolveId_answers (rest : List Stmt) (hc : s.cs = false) :
    ∃ u, resolveId rest s = .next u := by
  simp only [resolveId]
  split
  · exact ⟨_, complete_free hc⟩
  · exact ⟨_, complete_free hc⟩
  · exact ⟨_, beginTxn_free hc⟩

theorem resolveLegacy_answers (hc : s.cs = false) : ∃ u, resolveLegacy s = .next u := by
  simp only [resolveLegacy]
  split
  · exact ⟨_, complete_free hc⟩
  · exact ⟨_, complete_free hc⟩

theorem pollRestart_answers (rest : List Stmt) (hc : s.cs = false) :
    ∃ u, pollRestart rest s = .next u := by
  simp only [pollRestart]
  split
  · exact ⟨_, abort_free hc⟩
  · exact ⟨_, rfl⟩

/-- With the bus free, statements that end in a completion reach the next event or the completion. -/
theorem resume_answers {todo : List Stmt} (h : todo.any Stmt.closes = true) (hc : s.cs = false) :
    ∃ u, resume todo s = .next u := by
  induction todo generalizing s with
  | nil => cases h
  | cons x rest ih =>
    cases x <;> simp only [resume]
    case txn t => exact ⟨_, beginTxn_free hc⟩
    case waitReady =>
      exact ⟨_, beginTxn_free (s := { s with work := { s.work with bursts := 0, k := 0 } }) hc⟩
    case pollEnd =>
      split
      · exact ih h hc
      · exact pollRestart_answers rest hc
    case pollBurst => exact ⟨_, beginTxn_free (s := { s with work := { s.work with k := 0 } }) hc⟩
    case resolveId => exact resolveId_answers rest hc
    case resolveLegacy => exact resolveLegacy_answers hc
    case aaiAdvance =>
      split
      · exact ih h hc
      · exact ⟨_, beginTxn_free (s := advance s) hc⟩
    case aaiLoop =>
      split
      · exact ⟨_, beginTxn_free hc⟩
      · exact ⟨_, beginTxn_free hc⟩
    case finishRead => exact ⟨_, complete_free (s := { s with count := s.work.opLen }) hc⟩
    case finishDelim => exact ⟨_, complete_free (s := { s with count := s.work.i }) hc⟩
    case complete e => exact ⟨_, complete_free hc⟩

/-- The first step of a command, or of an illegal word. -/
theorem seqStep_start_answers (hs : s.atStart) : ∃ u, seqStep s = .next u := by
  obtain ⟨hp, hc⟩ := hs
  cases hd : decodeWord s.cmd with
  | error e => exact ⟨_, seqStep_illegal ⟨hp, hc⟩ hd⟩
  | ok i =>
    obtain ⟨p, hprog⟩ := decodeWord_command hd
    obtain ⟨x, rest, hfirst, hx⟩ := program_starts hprog s
    rw [seqStep_of_fetch (fetch_start hp hd), exec_command hprog, runCommand_start hp, hfirst]
    obtain ⟨u, h, -⟩ := resume_starts (rest := rest) (s := { s with work := (p s).1 }) hx hc
    exact ⟨u, h⟩

theorem Inv.seqStep_answers (h : Inv s) : AnswersOrStops s.buf (Machine.seqStep s) := by
  match hp : s.phase with
  | .idle =>
    rw [seqStep_idle hp]
    exact .next _ _
  | .run .start => exact .inl (seqStep_start_answers ⟨hp, by rw [h.csWire, hp]; rfl⟩)
  | .run (.at todo) =>
    have closes := (h.todoOk (by simp only [State.busy, hp]) (by simp [hp])).closes
    rw [hp] at closes
    rw [seqStep_at hp]
    exact .inl (resume_answers closes (by rw [h.csWire, hp]; rfl))
  | .run (.wire t acts todo) =>
    rw [seqStep_wire hp]
    exact wireStep_total (by rw [h.csWire, hp]; rfl)

end

/-- Settles O22: each agent's move answers, or reads an unwritten byte. -/
theorem onlyFaultIsUnwrittenByte : Obligations.OnlyFaultIsUnwrittenByte := by
  unfold Obligations.OnlyFaultIsUnwrittenByte
  intro s h
  cases hturn : s.nextTurn with
  | host =>
    rw [step_host h.legal hturn]
    exact hostStep_answers s.popTurn
  | sequencer =>
    rw [step_sequencer h.legal hturn]
    exact h.popTurn.seqStep_answers
  | reset => exact .inl ⟨_, step_reset h.legal hturn⟩

/-! ### TIMEOUT comes only from the poller at its bound (R262, R402) -/

section
variable {s u : State}

/-- The poller's condition for giving up after the burst that just ended. -/
def State.exhausted (s : State) : Prop :=
  s.restartLimit ≠ 0 ∧ s.restartLimit.toNat ≤ s.work.bursts + 1 ∧ busyByte s.work.s

theorem complete_err {e : ErrCode} (h : complete e s = .next u) : u.err = e := by
  obtain ⟨-, rfl⟩ := complete_eq_next.1 h
  rfl

theorem beginTxn_busy {t : Txn} {todo : List Stmt} (h : beginTxn t todo s = .next u) :
    u.busy = true := by
  obtain ⟨-, rfl⟩ := beginTxn_eq_next.1 h
  rfl

theorem exhausted_of_pollRestart {rest : List Stmt} (hready : ¬ ready s.work.s = true)
    (h : pollRestart rest s = .next u) (hb : u.busy = false) : s.exhausted := by
  rcases pollRestart_next h with ⟨hne, hle, -⟩ | hwindow
  · exact ⟨hne, hle, (not_ready_iff _).1 (by simpa using hready)⟩
  · cases hwindow
    cases hb

/-- Plain statements complete with TIMEOUT only where the poller gives up. -/
theorem exhausted_of_resume {todo : List Stmt} (hplain : todo.all Stmt.plain = true)
    (h : resume todo s = .next u) (hb : u.busy = false) (he : u.err = .timeout) : s.exhausted := by
  induction todo generalizing s with
  | nil => cases h
  | cons x rest ih =>
    rw [List.all_cons, Bool.and_eq_true] at hplain
    obtain ⟨hx, hrest⟩ := hplain
    cases x <;> simp only [resume] at h
    case txn t => cases hb.symm.trans (beginTxn_busy h)
    case waitReady => cases hb.symm.trans (beginTxn_busy h)
    case pollBurst => cases hb.symm.trans (beginTxn_busy h)
    case pollEnd =>
      split at h
      · exact ih hrest h
      · rename_i hready
        exact exhausted_of_pollRestart hready h hb
    case resolveId =>
      rcases resolveId_next h with ⟨p, unknown, -, h⟩ | h
      · cases he.symm.trans (complete_err h)
      · cases hb.symm.trans (beginTxn_busy h)
    case resolveLegacy =>
      obtain ⟨p, unknown, -, h⟩ := resolveLegacy_next h
      cases he.symm.trans (complete_err h)
    case aaiAdvance =>
      split at h
      · exact ih (s := advance s) hrest h
      · cases hb.symm.trans (beginTxn_busy h)
    case aaiLoop =>
      split at h
      · cases hb.symm.trans (beginTxn_busy h)
      · cases hb.symm.trans (beginTxn_busy h)
    case finishRead => cases he.symm.trans (complete_err h)
    case finishDelim => cases he.symm.trans (complete_err h)
    case complete e =>
      have hne : e ≠ .timeout := of_decide_eq_true hx
      exact absurd ((complete_err h).symm.trans he) hne

/-- A first statement completes without TIMEOUT, if it completes. -/
theorem err_of_starts {x : Stmt} {rest : List Stmt} (hx : x.starts = true)
    (h : resume (x :: rest) s = .next u) (hb : u.busy = false) : u.err ≠ .timeout := by
  cases x with
  | txn t => cases hb.symm.trans (beginTxn_busy h)
  | waitReady => cases hb.symm.trans (beginTxn_busy h)
  | complete e =>
    have hne : e ≠ .timeout := of_decide_eq_true hx
    exact fun he => hne ((complete_err h).symm.trans he)
  | _ => cases hx

end

/-- Settles O26: the step is the poller's, as any other completion gives another code. -/
theorem timeoutOnlyFromBoundedWait : Obligations.TimeoutOnlyFromBoundedWait := by
  unfold Obligations.TimeoutOnlyFromBoundedWait
  intro s t h hb hstep hidle herr
  have hist : t.history = s.history := by
    rcases (seqStep_stepped hb hstep).one_event with ⟨hbusy, -⟩ | ⟨-, -, hist, -⟩
    · cases hbusy.symm.trans hidle
    · exact hist
  have bound : s.exhausted := by
    rcases seqStep_next hb hstep with ⟨x, acts, todo, hp, hu⟩ | ⟨todo, hp, hu⟩ | ⟨p, hp, hprog, hu⟩
    · obtain ⟨_, _, _, _, _, rfl⟩ := wireStep_frame hu
      cases hidle
    · have plain := h.plain
      rw [hp] at plain
      exact exhausted_of_resume plain hu hidle herr
    · have starts : ∃ x rest, (p s).2 = x :: rest ∧ x.starts = true := by
        rcases hprog with rfl | ⟨i, -, hi⟩
        · exact ⟨_, _, rfl, rfl⟩
        · exact program_starts hi s
      obtain ⟨x, rest, hfirst, hx⟩ := starts
      rw [hfirst] at hu
      exact absurd herr (err_of_starts hx hu hidle)
  obtain ⟨hne, hle, hbusy⟩ := bound
  exact ⟨hne, hle, hbusy, hist.symm⟩

/-! ### A window is a step of its own (R263, R59) -/

theorem satIncr_toNat (v : Word) : (satIncr v).toNat = min (v.toNat + 1) 0xFFFFFFFF := by
  unfold satIncr
  split <;> bv_omega

theorem append_singleton_ne_self (es : List BusEvent) (e : BusEvent) : es ≠ es ++ [e] := by
  simp

/-- Settles O27: of the kinds of step only the poller's window appends Window. -/
theorem windowIsItsOwnStep : Obligations.WindowIsItsOwnStep := by
  unfold Obligations.WindowIsItsOwnStep
  intro s t h hb hstep
  cases seqStep_stepped hb hstep with
  | wire x acts todo hp hu =>
    obtain ⟨-, ⟨w, rfl⟩ | ⟨o, acts', w, rfl⟩⟩ := wireStep_next hu
    · exact ⟨fun hw => by simp at hw, fun _ => rfl⟩
    · exact ⟨fun hw => by simp at hw, fun _ => rfl⟩
  | resumed todo _ hwire _ hu =>
    cases hu with
    | opens x acts todo' w j hc hj hu =>
      subst hu
      exact ⟨fun hw => by simp at hw, fun _ => rfl⟩
    | window todo' w hu =>
      subst hu
      exact ⟨fun _ => ⟨h.csWire.trans hwire, satIncr_toNat s.restarts, rfl⟩, fun hw => absurd rfl hw⟩
    | ends e c hc hu =>
      subst hu
      exact ⟨fun hw => absurd hw (append_singleton_ne_self _ _), fun _ => rfl⟩
    | commits p unknown j l hc hr hu =>
      subst hu
      exact ⟨fun hw => absurd hw (append_singleton_ne_self _ _), fun _ => rfl⟩
    | aborts w e hc hu =>
      subst hu
      exact ⟨fun hw => by simp at hw, fun _ => rfl⟩

/-! ### The profile once a DETECT has completed (R218, R219) -/

/-- The registers a DETECT writes are the same. -/
def State.SameProfile (s u : State) : Prop :=
  u.profile = s.profile ∧ u.usableSectors = s.usableSectors ∧ u.unknownDev = s.unknownDev ∧
    u.profileLocked = s.profileLocked ∧ u.jedecId = s.jedecId ∧ u.legacyId = s.legacyId

theorem HostMoved.sameProfile {s u : State} (h : HostMoved s u) : s.SameProfile u := by
  cases h <;> (rename_i h; rw [h]; exact ⟨rfl, rfl, rfl, rfl, rfl, rfl⟩)

theorem Stepped.sameProfile {s u : State} (h : Inv s) (hl : s.profileLocked = true)
    (hu : Stepped s u) : s.SameProfile u := by
  cases hu with
  | wire t acts todo hp hu =>
    obtain ⟨_, _, _, _, _, rfl⟩ := wireStep_frame hu
    exact ⟨rfl, rfl, rfl, rfl, rfl, rfl⟩
  | resumed todo _ _ hnow hu =>
    refine hu.profile_frame (Bool.eq_false_iff.2 fun hr => ?_)
    cases hl.symm.trans (h.resolving (hnow hr))

/-- Settles O28: with the lock set no statement that resolves stands anywhere. -/
theorem profileFixedOnceLocked : Obligations.ProfileFixedOnceLocked := by
  unfold Obligations.ProfileFixedOnceLocked
  intro s t h hl hturn hstep
  have same : s.SameProfile t := by
    rcases step_next hstep with ⟨-, hu⟩ | ⟨-, hb, hu⟩ | ⟨-, -, rfl⟩ | ⟨hreset, -⟩
    · exact (hostStep_moved hu).sameProfile (s := s.popTurn)
    · exact (seqStep_stepped (s := s.popTurn) hb hu).sameProfile (s := s.popTurn) h.popTurn hl
    · exact ⟨rfl, rfl, rfl, rfl, rfl, rfl⟩
    · exact absurd hreset hturn
  obtain ⟨hprofile, husable, hunknown, hlocked, hjedec, hlegacy⟩ := same
  exact ⟨hlocked.trans hl, hprofile, husable, hunknown, hjedec, hlegacy⟩

end Sys2Proof.Machine

/-! ## Proofs: whole runs of WAIT_READY, of the erases and of the programs (spec/43_wait.md to 45_program.md) -/

namespace Sys2Proof.Machine

open Sys2Proof

/-! ### DETECT of manufacturer D without the fallback (R208, R215) -/

theorem identify_noHandling {cfg : Config} {d c : Byte} (hcfg : cfg.mfrDistinct = true)
    (hD : cfg.dFallback = false) : identify cfg cfg.mfrD d c = .noHandling := by
  simp only [Config.mfrDistinct, Bool.and_eq_true, decide_eq_true_eq] at hcfg
  obtain ⟨⟨⟨⟨⟨-, -⟩, had⟩, -⟩, hbd⟩, hcd⟩ := hcfg
  simp [identify, had.symm, hbd.symm, hcd.symm, hD]

theorem exec_detect_noHandling {s : State} {w : Work} {m d c : Byte} (hc : s.cs = false)
    (h : identify s.cfg m d c = .noHandling) :
    exec .detect (s.put (.at [.resolveId]) (w.triplet m d c)) = .next
      (commitProfile (profileUnknown s.profile) true
        { s.completed .ok with jedecId := joinId m d c }) := by
  simp only [exec_detect_at, resume, resolveId, Work.triplet, State.put_work, State.put_cfg, h]
  exact complete_free hc

/-- Settles O34: the triplet has no handling, so DETECT commits the kept profile as UNKNOWN. -/
theorem detectManufacturerD : Obligations.DetectManufacturerD := by
  unfold Obligations.DetectManufacturerD
  intro s r d c hs hl hcfg hD hans
  have resolved := exec_detect_noHandling (s := s.afterTxn (idBytes s.cfg)) (w := s.work) hs.2
    (identify_noHandling (d := d) (c := c) hcfg hD)
  refine ⟨Work.blank, ?_⟩
  rw [runInstr_add (n := 1) (run_detect_identify hs hl hans)]
  refine (runInstr_step resolved).trans ?_
  rw [commitProfile, satSub_eq_ofNat, joinId_eq_ofNat]
  rfl

/-! ### A command's run up to a wait that meets the poll bound (R173, R262) -/

theorem put_busyFor (s : State) (p : Pos) (w : Work) (n : Nat) :
    (s.put p w).busyFor n ↔ s.busyFor n := by
  simp [State.busyFor, State.busyBurst]

theorem afterPiece_restartLimit (p : Piece) (s : State) :
    (p.after s).restartLimit = s.restartLimit := by
  cases p with
  | txn os => rfl
  | wait x => exact State.afterWait_restartLimit s x

/-- The poll bound, from the wait's first Select on: TIMEOUT after l + 1 full bursts. -/
theorem run_timeout_at {i : Instr} (hi : i.isCommand = true) {todo : List Stmt} {s : State} {w : Work}
    {l : Nat} (hc : s.cs = false) (hl : s.restartLimit.toNat = l + 1) (hx : s.busyFor (l + 1)) :
    runInstr i (104 * (l + 1)) (s.put (.at (.waitReady :: todo)) w) =
      .next (((s.afterRestarts l).afterBurst 100).completed .timeout) := by
  have run := run_timeout (stepsWire_command hi rdsrTxn) (stepsTodo_command hi)
    (s := s.put (.at (.waitReady :: todo)) w) rfl hc hl ((put_busyFor s _ w _).2 hx)
  rwa [State.put_restart, State.put_afterBurst, State.put_completed] at run

/-- A script whose pieces go well up to a wait that meets the bound ends there with TIMEOUT. -/
theorem Script.timeout {i : Instr} (hi : i.isCommand = true) {o : State} {todo : List Stmt} {w : Work}
    {ps qs all : List Piece} {x : Wait} {l : Nat} (script : Script o todo w all)
    (hall : all = ps ++ .wait x :: qs) {s : State} (ho : s.SetUpAs o) (hc : s.cs = false)
    (hold : piecesHold ps s) (hl : s.restartLimit.toNat = l + 1)
    (hx : (afterPieces ps s).busyFor (l + 1)) :
    runInstr i (pieceSteps ps + 104 * (l + 1)) (s.put (.at todo) w) =
      .next ((((afterPieces ps s).afterRestarts l).afterBurst 100).completed .timeout) := by
  induction script generalizing ps s with
  | complete w rest => simp at hall
  | @txn t head bytes acts todo w v ps' hacts htail _ ih =>
    cases ps with
    | nil => cases hall
    | cons p ps =>
      cases hall
      rw [← ho.cfg, ← ho.profile] at hacts
      rw [← ho.buf] at htail
      have sent := run_txnTail (s := s.put (.at (.txn t :: todo)) w) (stepsWire_command hi t) hacts
        htail (stepsTodo_command hi _ (.txn t :: todo) rfl) hc
      rw [State.put_afterTxn, State.put_put] at sent
      rw [pieceSteps, Piece.steps, Nat.add_assoc, runInstr_add sent]
      exact ih rfl (ho.after (.txn (head ++ bytes))) hc hold.2 hl hx
  | @wait y todo w ps' _ ih =>
    cases ps with
    | nil =>
      rw [pieceSteps, Nat.zero_add]
      exact run_timeout_at hi hc hl hx
    | cons p ps =>
      cases hall
      obtain ⟨ready, rest⟩ := hold
      obtain ⟨v, waited, hv, hready⟩ := run_wait (stepsWire_command hi rdsrTxn) (stepsTodo_command hi)
        (s := s.put (.at (.waitReady :: todo)) w) (x := y) rfl hc ((put_waits s _ w y).2 ready)
      have onward : exec i ((s.afterWait y).put (.at (.pollEnd :: todo)) v) =
          resume todo ((s.afterWait y).put (.at (.pollEnd :: todo)) v) :=
        (stepsTodo_command hi _ (.pollEnd :: todo) rfl).trans (if_pos hready)
      have bounded := (afterPiece_restartLimit (.wait y) s).symm ▸ hl
      have later := ih v hv rfl (ho.after (.wait y)) ((State.afterWait_cs s y).trans hc) rest bounded hx
      rw [State.put_afterWait, State.put_put] at waited
      rw [pieceSteps, Piece.steps, Nat.add_assoc, runInstr_add waited]
      exact (runInstr_resume hi onward (pieceSteps ps + 104 * l + 103)).trans later
  | @goto todo todo' w w' ps' hgoto _ ih =>
    have jump : exec i (s.put (.at todo) w) =
        resume todo' { s.put (.at todo) w with work := w' } :=
      (stepsTodo_command hi _ _ rfl).trans (hgoto (s.put (.at todo) w) ⟨ho.cfg, ho.profile, ho.buf⟩)
    exact (runInstr_resume hi jump (pieceSteps ps + 104 * l + 103)).trans
      (ih hall ho hc hold hl hx)

/-! ### WAIT_READY (R261 to R266) -/

theorem exec_waitReady_start {s : State} (hs : s.atStart) :
    exec .waitReady s = resume [.waitReady, .complete .ok] { s with work := s.work } :=
  runCommand_start hs.1

theorem script_waitReady (o : State) (x : Wait) (w : Work) :
    Script o [.waitReady, .complete .ok] w [.wait x] :=
  .wait x fun v _ => .complete v []

/-- Settles O37: the program is one wait and the completion. -/
theorem waitReadyRun : Obligations.WaitReadyRun := by
  unfold Obligations.WaitReadyRun
  intro s x hs hx
  exact run_command_script rfl hs (exec_waitReady_start hs) (script_waitReady s x s.work) ⟨hx, trivial⟩

/-- Settles O38: the wait meets the bound at once in the program. -/
theorem waitReadyTimesOut : Obligations.WaitReadyTimesOut := by
  unfold Obligations.WaitReadyTimesOut
  intro s l hs hl hx
  exact (runInstr_resume rfl (exec_waitReady_start hs) (104 * l + 103)).trans
    (run_timeout_at rfl hs.2 hl hx)

section
variable {i : Instr} {s t : State}

theorem runInstr_split {m k : Nat} (h : runInstr i (m + k) s = .next t) :
    ∃ u, runInstr i m s = .next u ∧ runInstr i k u = .next t := by
  induction m generalizing s with
  | zero => exact ⟨s, rfl, by rwa [Nat.zero_add] at h⟩
  | succ m ih =>
    rw [Nat.add_right_comm, runInstr_succ] at h
    split at h
    · rename_i u hu
      rw [runInstr_step hu]
      exact ih h
    · cases h
    · cases h

/-- A command does not start by itself: what runs at the end of a run ran before. -/
theorem busy_of_runInstr (hi : i.isCommand = true) {k : Nat} (h : runInstr i k s = .next t)
    (hb : t.busy = true) : s.busy = true := by
  rcases busy_or_idle s with hs | hidle
  · exact hs
  · cases k with
    | zero => exact Host.Outcome.next.inj h ▸ hb
    | succ k =>
      obtain ⟨p, hp⟩ := programOf_of_isCommand hi
      simp [runInstr_succ, exec_command hp, runCommand, hidle] at h

end

/-- Settles O39: the n bursts end at a running state, so every earlier state runs too. -/
theorem waitReadyNeverGivesUp : Obligations.WaitReadyNeverGivesUp := by
  unfold Obligations.WaitReadyNeverGivesUp
  intro s n hs hl hx
  have start : AtBurst .waitReady s [.complete .ok] { s.work with bursts := 0, k := 0 } :=
    ⟨exec_waitReady_start hs, rfl, hs.2⟩
  obtain ⟨q, u, v, run, -⟩ := run_restarts (stepsWire_command rfl rdsrTxn) (stepsTodo_command rfl) n hs.1
    start (.inl hl) hx
  refine ⟨fun m hm => ?_, _, run, rfl, rfl, rfl⟩
  obtain ⟨k, hk⟩ := Nat.exists_eq_add_of_le hm
  rw [hk] at run
  obtain ⟨t, before, after⟩ := runInstr_split run
  exact ⟨t, before, busy_of_runInstr rfl after rfl⟩

/-! ### The erases and the programs: the pieces of each command (R280, R282, R302, R305, R318) -/

section
variable {s : State} {i : Instr} {ps : List Piece}

theorem script_eraseSector (o : State) (x : Wait) (w : Work) (a : Addr) :
    Script o [.txn (wrenTxn o.cfg), .txn (seTxn a), .waitReady, .complete .ok] w
      [.txn [o.cfg.opWren], .txn ((0x20 : Byte) :: addrBytesNat a), .wait x] :=
  .sends (os := [o.cfg.opWren]) rfl (.sends (frameActs_eq_sends 0x20 a) (script_waitReady o x w))

theorem script_eraseAll (o : State) (x : Wait) (w : Work) :
    Script o [.txn (wrenTxn o.cfg), .txn ceTxn, .waitReady, .complete .ok] w
      [.txn [o.cfg.opWren], .txn [0xC7], .wait x] :=
  .sends (os := [o.cfg.opWren]) rfl (.sends (os := [0xC7]) rfl (script_waitReady o x w))

theorem script_direct {o : State} (x : Wait) (w : Work) (a : Addr) {data : List Byte}
    (hne : data ≠ []) (hbuf : bufHolds o.buf data) :
    Script o (programDirect o.cfg a 0 data.length ++ [.complete .ok]) w (directPieces o.cfg a data x) := by
  have script := script_programDirect (w := w) a hne hbuf x fun v _ => .complete v []
  rwa [List.append_nil] at script

theorem bufHolds_singleton {m : Memory} {b : Byte} (h : m.read 0 = some b) : bufHolds m [b] :=
  bufHolds_iff_holdsFrom.2 (Memory.holdsFrom_cons.2 ⟨h, fun j c hc => by simp at hc⟩)

theorem exec_write_direct (hs : s.atStart) (haai : s.profile.aai = false)
    (hfit : s.work.opLen.toNat ≤ s.cfg.bufBytes) (hne : s.work.opLen ≠ 0) :
    exec .write s = resume
      (programDirect s.cfg s.work.opAddr 0 s.work.opLen.toNat ++ [.complete .ok]) s := by
  calc exec .write s = resume (writeProgram s).2 { s with work := (writeProgram s).1 } :=
        runCommand_start hs.1
    _ = _ := by rw [writeProgram_direct haai hfit hne]

theorem opLen_ne_zero {data : List Byte} (hlen : data.length = s.work.opLen.toNat) (hne : data ≠ []) :
    s.work.opLen ≠ 0 := by
  intro h
  rw [h] at hlen
  exact hne (List.length_eq_zero_iff.1 hlen)

/-- A command's program is a script of its pieces. -/
theorem CommandPieces.script (h : CommandPieces s i ps) (hs : s.atStart) :
    i.isCommand = true ∧
      ∃ todo w, exec i s = resume todo { s with work := w } ∧ Script s todo w ps := by
  cases h with
  | eraseSector x =>
    exact ⟨rfl, _, _, runCommand_start hs.1, script_eraseSector s x s.work s.work.opAddr⟩
  | eraseAll x => exact ⟨rfl, _, _, runCommand_start hs.1, script_eraseAll s x s.work⟩
  | writeByte b x hb =>
    exact ⟨rfl, _, _, runCommand_start hs.1,
      script_direct (data := [b]) x s.work s.work.opAddr (List.cons_ne_nil b [])
        (bufHolds_singleton hb)⟩
  | writeDirect data x haai hlen hne hfit hbuf =>
    have script := script_direct x s.work s.work.opAddr hne hbuf
    rw [hlen] at script
    exact ⟨rfl, _, s.work, exec_write_direct hs haai (hlen ▸ hfit) (opLen_ne_zero hlen hne), script⟩
  | writeAai data x0 x haai hlen hne hfit hbuf =>
    have streams : s.work.aaiArgs.Streams s.buf data :=
      { left := hlen.symm
        fits := by simpa [Work.aaiArgs, hlen] using s.work.opLen.isLt
        held := bufHolds_iff_holdsFrom.1 hbuf }
    exact ⟨rfl, _, _, exec_write_aai hs haai (hlen ▸ hfit) (opLen_ne_zero hlen hne),
      script_programAai (w := s.work.aaiArgs) x0 x hne rfl streams⟩

theorem CommandPieces.run (h : CommandPieces s i ps) (hs : s.atStart) (hold : piecesHold ps s) :
    runInstr i (pieceSteps ps + 1) s = .next ((afterPieces ps s).completed .ok) := by
  obtain ⟨hi, todo, w, start, script⟩ := h.script hs
  exact run_command_script hi hs start script hold

end

/-- Settles O40: its program is a script of write-enable, 0x20 with the address, and the wait. -/
theorem eraseSectorRun : Obligations.EraseSectorRun := by
  unfold Obligations.EraseSectorRun
  exact ⟨rfl, fun s x hs hold => (CommandPieces.eraseSector x).run hs hold⟩

/-- Settles O41: its program is a script of write-enable, 0xC7, and the wait. -/
theorem eraseAllRun : Obligations.EraseAllRun := by
  unfold Obligations.EraseAllRun
  exact ⟨rfl, fun s x hs hold => (CommandPieces.eraseAll x).run hs hold⟩

/-- Settles O42: its program is ProgramDirect of one byte, without a test of the profile or LEN. -/
theorem writeByteRun : Obligations.WriteByteRun := by
  unfold Obligations.WriteByteRun
  exact ⟨rfl, fun s b x hs hb hold => (CommandPieces.writeByte b x hb).run hs hold⟩

/-- Settles O43: with AAI = 0 WRITE's program is ProgramDirect of the payload. -/
theorem writeDirectRun : Obligations.WriteDirectRun := by
  unfold Obligations.WriteDirectRun
  intro s data x hs haai hlen hne hfit hbuf ps hold
  exact (CommandPieces.writeDirect data x haai hlen hne hfit hbuf).run hs hold

/-- Settles O46: each command's script ends at the wait that meets the bound. -/
theorem timeoutSkipsTheRest : Obligations.TimeoutSkipsTheRest := by
  unfold Obligations.TimeoutSkipsTheRest
  intro s i l ps qs x hs h hold hl hx
  obtain ⟨hi, todo, w, start, script⟩ := h.script hs
  exact (runInstr_resume hi start (pieceSteps ps + 104 * l + 103)).trans
    (script.timeout hi rfl ⟨rfl, rfl, rfl⟩ hs.2 hold hl hx)

end Sys2Proof.Machine

/-! ## Proofs: the rows of the opcode table (spec/30_encoding.md R130, R131) -/

namespace Sys2Proof.Machine

open Sys2Proof

/-! ### A row's transaction runs as it does in a command (R164) -/

/-- The row i takes t as its own transaction where the parameters are c. -/
def Owns (c : Config) (i : Instr) (t : Txn) : Prop := ∃ mine, rowOf c i = some mine ∧ mine t = true

section
variable {i k : Instr} {t : Txn} {acts : List Act} {todo : List Stmt} {s : State}

theorem exec_owned_wire (h : Owns s.cfg i t) (hp : s.phase = .run (.wire t acts todo)) :
    exec i s = wireStep t acts todo s := by
  obtain ⟨mine, hrow, ht⟩ := h
  exact (exec_row hrow).trans (runTransaction_wire ht hp)

theorem exec_owned_at (h : Owns s.cfg i t) (hp : s.phase = .run (.at (.txn t :: todo))) :
    exec i s = beginTxn t todo s := by
  obtain ⟨mine, hrow, ht⟩ := h
  exact (exec_row hrow).trans (runTransaction_at ht hp)

/-- A row that owns t whatever the parameters are. -/
theorem stepsWire_of_owns (h : ∀ c, Owns c i t) : StepsWire i t :=
  fun s _ _ hp => exec_owned_wire (h s.cfg) hp

/-- An act whose event is one Xfer, with nothing else decided in it. -/
def Act.straight : Act → Bool
  | .send _ | .recvId _ => true
  | .sendBuf _ _ | .chunkFirst _ | .chunkNext _ | .sampleFirst | .sampleNext | .recvFirst _
  | .recvNext _ _ => false

theorem wireStep_straight {a : Act} {rest : List Act} (ha : a.straight = true) (hc : s.cs = true) :
    ∃ es f w, wireStep t (a :: rest) todo s = .next (s.ran true es f (.wire t rest todo) w) := by
  cases a with
  | send o => exact ⟨_, _, _, wireStep_send hc⟩
  | recvId slot => exact ⟨_, _, _, wireStep_recvId hc⟩
  | _ => cases ha

/-- From its open transaction to its Deselect a row runs as a command does, also where the row knows its
transaction by a parameter. -/
theorem run_owned_eq_command (hk : k.isCommand = true) (hstraight : acts.all Act.straight = true)
    (h : Owns s.cfg i t) (hp : s.phase = .run (.wire t acts todo)) (hc : s.cs = true) {n : Nat}
    (hn : n ≤ acts.length + 1) : runInstr i n s = runInstr k n s := by
  induction acts generalizing n s with
  | nil =>
    match n, hn with
    | 0, _ => rfl
    | 1, _ => rw [runInstr_step ((exec_owned_wire h hp).trans (deselect_ran hc)),
        runInstr_step ((stepsWire_command hk t s _ _ hp).trans (deselect_ran hc)), runInstr_zero,
        runInstr_zero]
  | cons a rest ih =>
    rw [List.all_cons, Bool.and_eq_true] at hstraight
    cases n with
    | zero => rfl
    | succ n =>
      obtain ⟨es, f, w, step⟩ := wireStep_straight (t := t) (rest := rest) (todo := todo) hstraight.1 hc
      rw [runInstr_step ((exec_owned_wire h hp).trans step),
        runInstr_step ((stepsWire_command hk t s _ _ hp).trans step)]
      exact ih (s := s.ran true es f _ w) hstraight.2 h rfl rfl (Nat.le_of_succ_le_succ hn)

/-- The same from the point before it. -/
theorem run_owned_txn (hk : k.isCommand = true)
    (hstraight : (t.acts s.cfg s.profile s.work).all Act.straight = true) (h : Owns s.cfg i t)
    (hp : s.phase = .run (.at (.txn t :: todo))) (hc : s.cs = false) {n : Nat}
    (hn : n ≤ (t.acts s.cfg s.profile s.work).length + 1) :
    runInstr i (n + 1) s = runInstr k (n + 1) s := by
  have opened : exec k s = beginTxn t todo s := stepsTodo_command hk s (.txn t :: todo) hp
  rw [runInstr_step ((exec_owned_at h hp).trans (beginTxn_ran hc)),
    runInstr_step (opened.trans (beginTxn_ran hc))]
  exact run_owned_eq_command (s := s.ran true _ _ _ _) hk hstraight h rfl rfl hn

end

/-! ### The rows with a fixed byte string (R131) -/

section
variable {i : Instr} {t : Txn} {os : List Byte} {todo : List Stmt} {s : State}

theorem FixedRow.owns {c : Config} (h : FixedRow c i t os) : Owns c i t := by
  cases h <;> exact ⟨_, rfl, by simp [isT1, isWrsr, isSe]⟩

theorem FixedRow.acts {c : Config} (h : FixedRow c i t os) (p : Profile) (w : Work) :
    t.acts c p w = os.map .send := by
  cases h with
  | se a => exact frameActs_eq_sends 0x20 a
  | _ => rfl

theorem straight_sends (os : List Byte) : (os.map Act.send).all Act.straight = true := by
  simp [Act.straight]

end

/-- Settles O49: the row runs as in a command, whose transaction of sends is known. -/
theorem fixedRowsRun : Obligations.FixedRowsRun := by
  unfold Obligations.FixedRowsRun
  intro s i t os todo h hp hc
  have acts := h.acts s.profile s.work
  have same := run_owned_txn (k := .detect) rfl (by rw [acts]; exact straight_sends os) h.owns hp hc
    (n := os.length + 1) (by simp [acts])
  exact same.trans (run_txn (stepsWire_command rfl t) acts
    (stepsTodo_command rfl s (.txn t :: todo) hp) hc)

/-! ### The identification rows (R202, R206) -/

theorem straight_idTxn (os : List Byte) (slots : List IdSlot) :
    (os.map Act.send ++ slots.map Act.recvId).all Act.straight = true := by
  simp [Act.straight]

/-- An identification row's whole transaction. -/
theorem run_owned_idTxn {i : Instr} {t : Txn} {todo : List Stmt} {s : State} {os as rs : List Byte}
    {slots : List IdSlot} (h : Owns s.cfg i t)
    (hacts : t.acts s.cfg s.profile s.work = os.map .send ++ slots.map .recvId)
    (hp : s.phase = .run (.at (.txn t :: todo))) (hc : s.cs = false)
    (hans : s.answers (os ++ List.replicate slots.length s.cfg.fill) = as ++ rs)
    (hlen : rs.length = slots.length) :
    runInstr i (os.length + slots.length + 2) s = .next
      ((s.afterTxn (os ++ List.replicate slots.length s.cfg.fill)).put (.at todo)
        (s.work.setIds slots rs)) := by
  have same := run_owned_txn (k := .detect) rfl (by rw [hacts]; exact straight_idTxn os slots) h hp hc
    (n := os.length + slots.length + 1) (by simp [hacts])
  exact same.trans (run_idTxn (stepsWire_command rfl t) hacts
    (stepsTodo_command rfl s (.txn t :: todo) hp) hc hans hlen)

/-- Settles O54: the received bytes go to the identification registers in order. -/
theorem identificationRowsRun : Obligations.IdentificationRowsRun := by
  unfold Obligations.IdentificationRowsRun
  intro s todo hc
  refine ⟨fun r r0 r1 r2 hp hans => ?_, ?_⟩
  · exact run_owned_idTxn (os := [s.cfg.opRdid]) (as := [r]) (rs := [r0, r1, r2])
      (slots := [.id0, .id1, .id2]) ⟨_, rfl, by simp [isRdid]⟩ rfl hp hc hans rfl
  · intro rs r0 r1 r2 r3 hp os hans
    have run := run_owned_idTxn (i := .spiRdidLegacy) (os := s.cfg.opRdidLegacy :: s.cfg.legacyIdPrefix)
      (as := rs) (rs := [r0, r1, r2, r3]) (slots := [.lid0, .lid1, .lid2, .lid3])
      ⟨_, rfl, by simp [isLid]⟩ rfl hp hc hans rfl
    rw [show os.length + 2 = _ from congrArg (· + 2) (List.length_append (bs := [_, _, _, _]))]
    exact run

/-! ### The rows whose opcode is fixed (R130) -/

theorem stepsWire_spiPp (a : Addr) (i0 m : Nat) :
    StepsWire .spiPp { op := 0x02, fmt := .pp a i0 m } :=
  stepsWire_of_owns fun _ => ⟨_, rfl, rfl⟩

theorem stepsWire_spiRdsr : StepsWire .spiRdsr rdsrTxn := stepsWire_of_owns fun _ => ⟨_, rfl, rfl⟩

/-- Settles O50: the opcode and the address are fixed at the Select, and the data bytes are T_PP's tail. -/
theorem pageProgramRowRuns : Obligations.PageProgramRowRuns := by
  unfold Obligations.PageProgramRowRuns
  intro s a i0 data todo hne hbuf hp hc
  have acts : Txn.acts s.cfg s.profile s.work { op := 0x02, fmt := .pp a i0 data.length } =
      ((0x02 : Byte) :: addrBytesNat a).map .send ++ [.sendBuf i0 data.length] :=
    congrArg (· ++ _) (frameActs_eq_sends 0x02 a)
  have run := run_txnTail (stepsWire_spiPp a i0 data.length) acts
    (tailRuns_sendBuf s.work hne hbuf) (exec_owned_at (i := .spiPp) ⟨_, rfl, rfl⟩ hp) hc
  have steps : ((0x02 : Byte) :: addrBytesNat a ++ data.map fun b => 0xFF - b).length + 2 =
      data.length + 6 := by
    simp [addrBytesNat]
  rwa [steps] at run

/-! ### The two auto-increment rows (R306, R308) -/

/-- The bytes of one chunk with these data bytes: they are complemented, and the pad is not. -/
def chunkBytes (u : WriteUnit) (data : List Byte) : List Byte :=
  data.map (fun b => 0xFF - b) ++ (if u = .two ∧ data.length = 1 then [0xFF] else [])

theorem exists_pair_of_length {data : List Byte} (h : data.length = 2) : ∃ b c, data = [b, c] := by
  match data, h with
  | [b, c], _ => exact ⟨b, c, rfl⟩

/-- One chunk, where its bytes stand in BUF from the index on, whatever else the payload has. -/
theorem tailRuns_chunkActs {u : WriteUnit} {w : Work} {m : Memory} {data : List Byte} (hn : w.n ≠ 0)
    (hlen : data.length = if u = .two ∧ 2 ≤ w.n.toNat then 2 else 1)
    (hbuf : ∀ j b, data[j]? = some b → m.read (w.i + BitVec.ofNat 16 j).toNat = some b) :
    TailRuns m (chunkActs u) (chunkBytes u data) w (w.moved data.length) := by
  have first {b : Byte} (h : data[0]? = some b) : m.read w.i.toNat = some b := by
    simpa using hbuf 0 b h
  have one : w.moved 1 = w.sent := rfl
  have two : w.moved 2 = w.sent.sent := (Work.sent_moved w 1).symm
  rintro i t todo s hw hp hc rfl rfl
  by_cases htwo : u = .two ∧ 2 ≤ s.work.n.toNat
  case pos =>
    rw [if_pos htwo] at hlen
    obtain ⟨b, c, rfl⟩ := exists_pair_of_length hlen
    obtain ⟨rfl, hle⟩ := htwo
    have run := run_chunkTwo hw hp hc (fun h => by simp [h] at hle) (first rfl) (hbuf 1 c rfl)
    rw [List.length_cons, List.length_singleton, two]
    simpa only [chunkBytes, complement_eq_sub] using! run
  case neg =>
    rw [if_neg htwo] at hlen
    obtain ⟨b, rfl⟩ := List.length_eq_one_iff.1 hlen
    rw [List.length_singleton, one]
    cases u with
    | one =>
      have run := run_chunkOne hw hp hc (first rfl)
      simpa only [chunkBytes, complement_eq_sub] using! run
    | two =>
      have hone : s.work.n = 1 := by
        have hlt : ¬ 2 ≤ s.work.n.toNat := fun hle => htwo ⟨rfl, hle⟩
        bv_omega
      have run := run_chunkPad hw hp hc hone (first rfl)
      simpa only [chunkBytes, complement_eq_sub] using! run

/-- Settles O51: the head is fixed at the Select, and the tail is one chunk. -/
theorem autoIncrementRowsRun : Obligations.AutoIncrementRowsRun := by
  unfold Obligations.AutoIncrementRowsRun
  intro s i t head data todo hrow hfmt hn hlen hbuf hp hc os
  have owns (c : Config) : Owns c i t := by
    rcases hrow with ⟨rfl, hop⟩ | ⟨rfl, hop⟩
    · exact ⟨_, rfl, by rcases hfmt with ⟨hfmt, -⟩ | ⟨hfmt, -⟩ <;> simp [isAai, hop, hfmt]⟩
    · exact ⟨_, rfl, by rcases hfmt with ⟨hfmt, -⟩ | ⟨hfmt, -⟩ <;> simp [isAai, hop, hfmt]⟩
  have acts : t.acts s.cfg s.profile s.work = head.map .send ++ chunkActs s.profile.unit := by
    rcases hfmt with ⟨hfmt, rfl⟩ | ⟨hfmt, rfl⟩
    · simp only [Txn.acts, hfmt]
      exact congrArg (· ++ _) (frameActs_eq_sends t.op s.work.a)
    · simp only [Txn.acts, hfmt, List.map_cons, List.map_nil, List.singleton_append]
  have run := run_txnTail (stepsWire_of_owns owns) acts (tailRuns_chunkActs hn hlen hbuf)
    (exec_owned_at (owns s.cfg) hp) hc
  rw [chunkBytes, ← List.append_assoc] at run
  exact run

/-! ### The row RDSR (R261) -/

/-- How a burst of j samples ends: at the first ready one, or with the 100th. -/
def burstEnds (j : Nat) (bs : List Byte) : Prop :=
  (1 ≤ j ∧ j ≤ 100 ∧ ∃ busy last, bs = busy ++ [last] ∧ readyByte last ∧ ∀ b ∈ busy, busyByte b) ∨
    (j = 100 ∧ ∀ b ∈ bs, busyByte b)

theorem burstEnds.spec {j : Nat} {bs : List Byte} (h : burstEnds j bs) :
    1 ≤ j ∧ j ≤ 100 ∧ (∀ b ∈ bs.dropLast, busyByte b) ∧ (readyByte (bs.getLastD 0) ∨ j = 100) := by
  rcases h with ⟨h1, h2, busy, last, rfl, hlast, hbusy⟩ | ⟨rfl, hbusy⟩
  · refine ⟨h1, h2, ?_, .inl ?_⟩
    · rwa [List.dropLast_concat]
    · rwa [getLastD_snoc]
  · exact ⟨by omega, by omega, fun b hb => hbusy b (List.dropLast_subset bs hb), .inr rfl⟩

/-- Settles O52: from before it the row runs one burst. -/
theorem readStatusRowRuns : Obligations.ReadStatusRowRuns := by
  unfold Obligations.ReadStatusRowRuns
  intro s j todo hp hc hk hends
  have ends : burstEnds j (s.samples j) := hends.imp_right fun ⟨hj, hbusy⟩ => ⟨hj, hj ▸ hbusy⟩
  obtain ⟨h1, h2, hbusy, hlast⟩ := ends.spec
  exact run_burst stepsWire_spiRdsr (w := s.work)
    (exec_owned_at (i := .spiRdsr) (t := rdsrTxn) ⟨_, rfl, rfl⟩ hp) hk hc h1 h2 hbusy hlast

end Sys2Proof.Machine

/-! ## Proofs: the rows that sample and receive, from their open transaction (spec/30_encoding.md R131) -/

namespace Sys2Proof.Machine

open Sys2Proof

/-! ### The row RDSR from its open transaction (R261) -/

/-- The status bytes the device answers to the rest of an open burst of j samples. -/
def State.openSamples (j : Nat) (s : State) : List Byte := (s.replies (burstBytes s.cfg j)).tail

/-- After the rest of an open burst: LAST_STATUS is its last sample. -/
def State.endBurst (j : Nat) (s : State) : State :=
  { s.endTxn (burstBytes s.cfg j) with lastStatus := (s.openSamples j).getLastD s.lastStatus }

/-- An open burst with its opcode sent and the first sample taken. -/
def State.sampled (todo : List Stmt) (s : State) : State :=
  s.ran true (List.zipWith .xfer [0x05, s.cfg.fill] (s.replies [0x05, s.cfg.fill]))
    (s.flash.converse s.cfg [0x05, s.cfg.fill]).2 (.wire rdsrTxn [.sampleNext] todo)
    { s.work with s := (s.openSamples 1).getLastD 0, k := s.work.k + 1 }

theorem openSamples_succ (todo : List Stmt) (m : Nat) (s : State) :
    s.openSamples (m + 1) =
      (s.sampled todo).work.s :: (s.sampled todo).replies (List.replicate m s.cfg.fill) := rfl

section
variable {b d e : Byte} {l : List Byte}

theorem mem_dropLast_cons {x : Byte} (h : x ∈ l.dropLast) : x ∈ (b :: l).dropLast := by
  rw [List.dropLast_cons_of_ne_nil (by rintro rfl; cases h)]
  exact List.mem_cons_of_mem _ h

theorem getLastD_of_ne_nil (h : l ≠ []) : l.getLastD d = (b :: l).getLastD e := by
  obtain ⟨x, xs, rfl⟩ := List.exists_cons_of_ne_nil h
  rfl

end

theorem run_sampled {i : Instr} (hw : StepsWire i rdsrTxn) {todo : List Stmt} {s : State}
    (hp : s.phase = .run (.wire rdsrTxn [.send 0x05, .sampleFirst] todo)) (hc : s.cs = true) (n : Nat) :
    runInstr i (n + 2) s = runInstr i n (s.sampled todo) := by
  rw [run_send (o := 0x05) (rest := [.sampleFirst]) (todo := todo) hw hp hc,
    run_sampleFirst (rest := []) (todo := todo) hw rfl rfl, State.ran_ran]
  rfl

/-- The row RDSR from its open transaction: the opcode, j samples, and the Deselect. -/
theorem run_openBurst {i : Instr} (hw : StepsWire i rdsrTxn) {todo : List Stmt} {s : State}
    (hp : s.phase = .run (.wire rdsrTxn [.send 0x05, .sampleFirst] todo)) (hc : s.cs = true)
    (hk : s.work.k = 0) {j : Nat} (ends : burstEnds j (s.openSamples j)) :
    runInstr i (j + 2) s = .next
      ((s.endBurst j).put (.at todo) { s.work with s := (s.openSamples j).getLastD 0, k := j }) := by
  obtain ⟨h1, h2, hbusy, hlast⟩ := ends.spec
  obtain ⟨m, rfl⟩ : ∃ m, j = m + 1 := ⟨j - 1, by omega⟩
  have counted : (s.sampled todo).work.k = 1 := congrArg (· + 1) hk
  have later (hm : m ≠ 0) : (s.sampled todo).replies (List.replicate m s.cfg.fill) ≠ [] :=
    List.ne_nil_of_length_pos (by simp [State.replies]; omega)
  rw [openSamples_succ todo] at hbusy hlast
  have samples := run_samples hw (todo := todo) m (s.sampled todo) rfl rfl
    (fun hm => hbusy _ (by rw [List.dropLast_cons_of_ne_nil (later hm)]; exact List.mem_cons_self))
    (fun hm => by
      subst hm
      exact hlast.imp id fun h => by omega)
    (by omega) (fun b hb => hbusy b (mem_dropLast_cons hb))
    (fun hm => hlast.imp (fun h => by rwa [← getLastD_of_ne_nil (later hm)] at h) fun h => by omega)
  rw [show m + 1 + 2 = (m + 1) + 2 from rfl, run_sampled hw hp hc, samples]
  simp [State.put, State.endBurst, State.endTxn, State.openSamples, State.sampled, State.ran,
    State.published, State.replies, burstBytes, List.replicate_succ, List.getLast?_cons, hk,
    Nat.add_comm]

/-- Settles O59: from its Select on the row runs the rest of one burst. -/
theorem readStatusRowFinishes : Obligations.ReadStatusRowFinishes := by
  unfold Obligations.ReadStatusRowFinishes
  rintro s t j todo rfl hp hc hk bs ends
  exact run_openBurst stepsWire_spiRdsr hp hc hk ends

/-! ### The rows READ and FAST_READ (R340, R341, R344) -/

/-- The read rows: which transaction is the row's, and the bytes before its data (R131, R341). -/
def ReadRow (c : Config) (a : Addr) (delim : Bool) (i : Instr) (t : Txn) (header : List Byte) : Prop :=
  (i = .spiRead ∧ t = { op := 0x03, fmt := .read a delim } ∧
      header = (0x03 : Byte) :: addrBytesNat a) ∨
    (i = .spiFastRead ∧ t = { op := 0x0B, fmt := .fread a delim } ∧
      header = (0x0B : Byte) :: addrBytesNat a ++ [c.fill])

section
variable {c : Config} {a : Addr} {delim : Bool} {i : Instr} {t : Txn} {header : List Byte}
  {todo : List Stmt} {s : State}

theorem ReadRow.owns (h : ReadRow c a delim i t header) (d : Config) : Owns d i t := by
  rcases h with ⟨rfl, rfl, -⟩ | ⟨rfl, rfl, -⟩
  · exact ⟨_, rfl, rfl⟩
  · exact ⟨_, rfl, rfl⟩

theorem ReadRow.acts (h : ReadRow c a delim i t header) (p : Profile) (w : Work) :
    t.acts c p w = header.map .send ++ [.recvFirst delim] := by
  rcases h with ⟨-, rfl, rfl⟩ | ⟨-, rfl, rfl⟩
  · exact congrArg (· ++ _) (frameActs_eq_sends 0x03 a)
  · simp only [Txn.acts, List.map_append, List.append_assoc]
    exact congrArg (· ++ _) (frameActs_eq_sends 0x0B a)

theorem readCount_eq {data : List Byte} {n : Nat} (h : data.length = n) :
    readCount delim data = if delim then delimCount data else n := by
  rw [readCount, h]

end

/-- Settles O53: the row runs one read transaction, with the loop's length in n. -/
theorem readRowsRun : Obligations.ReadRowsRun := by
  unfold Obligations.ReadRowsRun
  intro s i a delim t header todo hrow hp hc hn hfit n data m
  have row : ReadRow s.cfg a delim i t header := hrow
  have length : data.length = n := State.dataAfter_length n
  have taken : readCount delim data = m := readCount_eq length
  have run := run_readTxn (stepsWire_of_owns row.owns) (row.acts s.profile s.work)
    (exec_owned_at (row.owns s.cfg) hp) hc hn hfit
  have within : m ≤ n := taken ▸ length ▸ readCount_le_length delim data
  rw [show readCount delim (s.dataAfter header s.work.n.toNat) = m from taken] at run
  exact ⟨_, run, rfl, read_store_dataAfter s.buf s.work.i.toNat within⟩

/-! ### The read rows from their open transaction -/

section
variable {delim : Bool} {i : Instr} {t : Txn} {header : List Byte} {todo : List Stmt} {s : State}

/-- An open read with these header bytes sent, before its first data byte. -/
def State.sentHeader (header : List Byte) (q : Pos) (s : State) : State :=
  s.ran true (List.zipWith .xfer header (s.replies header)) (s.flash.converse s.cfg header).2 q s.work

theorem incoming_sentHeader (q : Pos) (n : Nat) :
    (s.sentHeader header q).incoming n =
      (s.replies (header ++ List.replicate n s.cfg.fill)).drop header.length := by
  simp [State.incoming, State.replies, State.sentHeader, converse_append]

theorem incoming_length (n : Nat) : (s.incoming n).length = n := by
  simp [State.incoming, State.replies]

/-- The device's first answers do not depend on how many Xfers follow. -/
theorem incoming_take {m n : Nat} (h : m ≤ n) : s.incoming m = (s.incoming n).take m := by
  obtain ⟨k, rfl⟩ := Nat.exists_eq_add_of_le h
  rw [State.incoming, State.incoming, State.replies, State.replies, ← List.replicate_append_replicate,
    converse_append]
  exact (List.take_left' (by simp)).symm

/-- The bytes that m Xfers received are stored where n would have put them, and nothing else changes. -/
theorem read_store_incoming (b : Memory) (k : Nat) {m n : Nat} (h : m ≤ n) :
    (∀ j, j < m → ∃ p, (s.incoming n)[j]? = some p ∧
      (b.store k (s.incoming m)).read (k + j) = some (0xFF - p)) ∧
    (∀ j, (j < k ∨ k + m ≤ j) → (b.store k (s.incoming m)).read j = b.read j) := by
  refine ⟨fun j hj => ?_, fun j hj => Memory.read_store_other (by rwa [incoming_length])⟩
  have received : j < (s.incoming n).length := by
    rw [incoming_length]
    omega
  refine ⟨_, List.getElem?_eq_getElem received, Memory.read_store_mem ?_⟩
  rw [incoming_take h, List.getElem?_take_of_lt hj, List.getElem?_eq_getElem received]

/-- After the rest of an open read that took m data bytes. -/
def State.endRead (header : List Byte) (m : Nat) (todo : List Stmt) (s : State) : State :=
  { s.endTxn (header ++ List.replicate m s.cfg.fill) with
    phase := .run (.at todo)
    buf := s.buf.store s.work.i.toNat ((s.sentHeader header .start).incoming m)
    work := s.work.moved m }

theorem afterReceiving_sentHeader (q : Pos) (m : Nat) :
    (s.sentHeader header q).afterReceiving m todo = s.endRead header m todo := by
  rw [State.afterReceiving, State.endRead, incoming_sentHeader, incoming_sentHeader]
  simp [State.endTxn, State.sentHeader, State.replies, State.ran, converse_append,
    List.zipWith_append]

/-- The rest of an open read, with the loop's length in n. -/
theorem run_openRead (hw : StepsWire i t)
    (hp : s.phase = .run (.wire t (header.map .send ++ [.recvFirst delim]) todo)) (hc : s.cs = true)
    (hne : s.work.n ≠ 0) (hi : s.work.i.toNat + s.work.n.toNat < 2 ^ 16) {m : Nat}
    (hm : readCount delim ((s.sentHeader header .start).incoming s.work.n.toNat) = m) :
    runInstr i (header.length + m + 1) s = .next (s.endRead header m todo) := by
  obtain ⟨k, hk⟩ : ∃ k, s.work.n.toNat = k + 1 :=
    Nat.exists_eq_succ_of_ne_zero fun h => hne (BitVec.eq_of_toNat_eq h)
  have sends := run_sends hw header [.recvFirst delim] todo s hp hc
  have data := run_receive (u := s.sentHeader header (.wire t [.recvFirst delim] todo)) hw k
    (hw _ [.recvFirst delim] todo rfl) rfl hk (hk ▸ hi)
  rw [incoming_sentHeader, ← incoming_sentHeader .start, ← hk, hm, afterReceiving_sentHeader] at data
  rw [Nat.add_assoc]
  exact (runInstr_add sends).trans data

end

/-- Settles O60: from its Select on the row runs the rest of one read transaction. -/
theorem readRowsFinish : Obligations.ReadRowsFinish := by
  unfold Obligations.ReadRowsFinish
  intro s i a delim t header todo hrow hp hc hn hfit n data m
  have row : ReadRow s.cfg a delim i t header := hrow
  have answers : (s.sentHeader header .start).incoming n = data := incoming_sentHeader .start n
  have length : data.length = n := answers ▸ incoming_length n
  have taken : readCount delim data = m := readCount_eq length
  have within : m ≤ n := taken ▸ length ▸ readCount_le_length delim data
  rw [row.acts] at hp
  have run := run_openRead (stepsWire_of_owns row.owns) hp hc hn hfit
    ((congrArg (readCount delim) answers).trans taken)
  have stored := read_store_incoming (s := s.sentHeader header .start) s.buf s.work.i.toNat within
  rw [answers] at stored
  exact ⟨_, run, rfl, stored⟩

end Sys2Proof.Machine

/-! ## Proofs: the host port, its registers and BUF, and reset (spec/10_state.md, spec/70_reset_and_hazards.md) -/

namespace Sys2Proof.Machine

open Sys2Proof

/-! ### The table's words (R121, R130) -/

/-- Settles O1: each word and each opcode passes its test of the decoder. -/
theorem tableWordsDecode : Obligations.TableWordsDecode :=
  ⟨rfl, rfl, rfl, rfl, rfl, rfl, rfl, rfl, rfl, rfl, rfl, rfl, rfl, rfl, rfl, rfl, rfl, rfl, rfl, rfl,
    rfl, rfl, rfl, rfl, rfl⟩

/-! ### Registers as numbers (R50, R54, R57) -/

theorem toNat_append_add {n m : Nat} (x : BitVec n) (y : BitVec m) :
    (x ++ y).toNat = 2 ^ m * x.toNat + y.toNat := by
  rw [BitVec.toNat_append, ← Nat.shiftLeft_add_eq_or_of_lt y.isLt, Nat.shiftLeft_eq, Nat.mul_comm]

theorem statusWord_toNat (s : State) :
    (statusWord s).toNat =
      s.busy.toNat + 2 * s.done.toNat + 4 * s.cs.toNat + 16 * s.err.code.toNat +
        256 * s.unknownDev.toNat + 512 * s.profileLocked.toNat + 1024 * s.busyAcc.toNat := by
  simp only [statusWord, toNat_append_add, BitVec.toNat_ofBool, BitVec.ofNat_eq_ofNat, BitVec.toNat_ofNat,
    Nat.zero_mod]
  omega

theorem profile0_toNat (p : Profile) :
    (profile0 p).toNat =
      p.srEn.toNat + 0x100 * p.pmask.toNat + 0x10000 * p.wop.toNat +
        0x1000000 * (unitCode p.unit).toNat + 0x4000000 * p.fast.toNat + 0x8000000 * p.aai.toNat +
        0x10000000 * (familyCode p.family).toNat := by
  simp only [profile0, toNat_append_add, BitVec.toNat_ofBool, BitVec.ofNat_eq_ofNat, BitVec.toNat_ofNat,
    Nat.zero_mod]
  omega

theorem errCode_toNat (e : ErrCode) :
    e.code.toNat =
      match e with
      | .ok => 0
      | .illegal => 1
      | .len => 2
      | .locked => 3
      | .timeout => 4 := by
  cases e <;> rfl

theorem unitCode_toNat (u : WriteUnit) :
    (unitCode u).toNat =
      match u with
      | .one => 1
      | .two => 2 := by
  cases u <;> rfl

theorem familyCode_toNat (f : Family) :
    (familyCode f).toNat =
      match f with
      | .default => 0
      | .a => 1
      | .b => 2
      | .c1 => 3
      | .c2 => 4
      | .legacy => 5
      | .unknown => 6 := by
  cases f <;> rfl

/-! ### The state after reset, and the reset from outside (R460, R461) -/

theorem satSub_toNat (a b : Word) : (satSub a b).toNat = a.toNat - b.toNat := by
  rw [satSub_eq_ofNat, BitVec.toNat_ofNat]
  have := a.isLt
  omega

/-- Settles O8: the registers of `State.resetOf`, read one by one. -/
theorem resetState : Obligations.ResetState := by
  unfold Obligations.ResetState
  refine ⟨fun c => ?_, rfl, rfl, rfl, rfl⟩
  have status : readReg 0x00C (State.resetOf c) = 0 := BitVec.eq_of_toNat_eq (statusWord_toNat _)
  exact ⟨rfl, rfl, rfl, rfl, fun _ => rfl, rfl, rfl, rfl, status, rfl, rfl, rfl, rfl, satSub_toNat _ _,
    rfl, rfl, rfl, rfl, rfl⟩

/-- The device sees a Desel at a reset only where the bus was selected, and queued answers ignore it. -/
theorem resetAction_flash {s : State} (h : s.cs = false ∨ ∃ as n, s.flash = .draws as n) :
    (resetAction s).flash = s.flash := by
  simp only [resetAction]
  rcases h with hc | ⟨as, n, hf⟩
  · exact if_neg (by simp [hc])
  · split
    · rw [hf, deselect_draws]
    · rfl

/-- Settles O9: a reset is `resetAction`, whose registers are those of `State.resetOf`. -/
theorem resetAbandons : Obligations.ResetAbandons := by
  unfold Obligations.ResetAbandons
  intro s hl hturn
  exact ⟨_, step_reset hl hturn, rfl, rfl, fun _ => rfl, fun _ => rfl, rfl, rfl,
    fun h => resetAction_flash (s := s.popTurn) h, rfl, rfl, rfl, rfl⟩

/-! ### Register reads (R50) -/

/-- Settles O10: outside BUF a read answers `readReg`, whose fields are read as numbers. -/
theorem registerReads : Obligations.RegisterReads := by
  unfold Obligations.RegisterReads
  intro s off ha hout
  have outside : bufIndex s.cfg off = none := bufIndex_outside (by omega)
  refine ⟨readReg off s, hostAccess_read_aligned ha (hostRead_outside outside), ?_⟩
  simp only [readReg, ← BitVec.toNat_inj, BitVec.ofNat_eq_ofNat, BitVec.toNat_ofNat, Nat.reducePow,
    Nat.reduceMod, apply_ite BitVec.toNat, statusWord_toNat, profile0_toNat,
    errCode_toNat, unitCode_toNat, familyCode_toNat]
  rfl

/-! ### Register writes (R52 to R58) -/

theorem extractLow_eq_ofNat (v : Word) (n : Nat) : v.extractLsb' 0 n = BitVec.ofNat n v.toNat := by
  apply BitVec.eq_of_toNat_eq
  simp

/-- Settles O11: the three registers that idle writes store, and the offsets that ignore them. -/
theorem idleRegisterWrites : Obligations.IdleRegisterWrites := by
  unfold Obligations.IdleRegisterWrites
  intro s off v hidle ha hcmd hstatus hout
  rw [hostAccess_write_aligned ha, hostWrite_outside (bufIndex_outside (by omega))]
  by_cases haddr : off = 0x004
  · subst haddr
    simp [writeReg, whenIdle_idle hidle, extractLow_eq_ofNat, respond]
  by_cases hlen : off = 0x008
  · subst hlen
    simp [writeReg, whenIdle_idle hidle, extractLow_eq_ofNat, respond]
  by_cases hpoll : off = 0x028
  · subst hpoll
    simp [writeReg, whenIdle_idle hidle, extractLow_eq_ofNat, respond]
  · simp only [writeReg_ignored hcmd haddr hlen hstatus hpoll, if_neg haddr, if_neg hlen, if_neg hpoll]
    rfl

/-- Bit i of STATUS (R54). -/
theorem statusWord_getLsbD (s : State) (i : Nat) :
    (statusWord s).getLsbD i =
      if i = 0 then s.busy
      else if i = 1 then s.done
      else if i = 2 then s.cs
      else if i = 3 then false
      else if i < 8 then s.err.code.getLsbD (i - 4)
      else if i = 8 then s.unknownDev
      else if i = 9 then s.profileLocked
      else if i = 10 then s.busyAcc
      else false := by
  unfold statusWord
  rw [BitVec.getLsbD_append]
  simp only [BitVec.getLsbD_append, BitVec.getLsbD_ofBool]
  match i with
  | 0 => simp
  | 1 => simp
  | 2 => simp
  | 3 => simp
  | 4 | 5 | 6 | 7 => simp
  | 8 => simp
  | 9 => simp
  | 10 => simp
  | i + 11 => simp

theorem clearMask_getLsbD : ∀ i < 32, (0x402#32).getLsbD i = decide (i = 1 ∨ i = 10) := by decide

/-- Clearing DONE and BUSYACC where v has a 1 clears their bits of the word. -/
theorem statusWord_clearW1c (v : Word) (s : State) :
    statusWord (clearW1c v s) = statusWord s &&& ~~~(v &&& 0x402) := by
  apply BitVec.eq_of_getLsbD_eq
  intro i hi
  rw [BitVec.getLsbD_and, BitVec.getLsbD_not, BitVec.getLsbD_and, BitVec.ofNat_eq_ofNat,
    clearMask_getLsbD i hi, statusWord_getLsbD, statusWord_getLsbD]
  by_cases hdone : i = 1
  · subst hdone
    simp
  by_cases hacc : i = 10
  · subst hacc
    simp
  · simp only [hdone, hacc, hi, if_false, or_self, decide_false, decide_true, Bool.and_false,
      Bool.not_false, Bool.and_true]
    rfl

/-- Settles O12: the write is `clearW1c`, idle or busy. -/
theorem statusWriteClears : Obligations.StatusWriteClears := by
  unfold Obligations.StatusWriteClears
  intro s v
  refine ⟨_, hostAccess_write_aligned rfl, ?_, ?_⟩
  · rw [hostWrite_outside (bufIndex_outside (by simp)), writeReg_status]
    exact statusWord_clearW1c v s
  · rw [hostWrite_outside (bufIndex_outside (by simp)), writeReg_status]
    rfl

/-! ### The lanes of a BUF word (R55, R84) -/

theorem wordBytes_lane (v : Word) {k : Nat} (hk : k < 4) :
    (wordBytes v)[k]? = some (BitVec.ofNat 8 (v.toNat / 256 ^ k)) := by
  have lane (j : Nat) : v.extractLsb' (8 * j) 8 = BitVec.ofNat 8 (v.toNat / 256 ^ j) := by
    apply BitVec.eq_of_toNat_eq
    simp [Nat.shiftRight_eq_div_pow, Nat.pow_mul]
  match k, hk with
  | 0, _ => exact congrArg some (lane 0)
  | 1, _ => exact congrArg some (lane 1)
  | 2, _ => exact congrArg some (lane 2)
  | 3, _ => exact congrArg some (lane 3)

theorem wordOfBytes_lanes (v : Word) :
    wordOfBytes (BitVec.ofNat 8 (v.toNat / 256 ^ 0)) (BitVec.ofNat 8 (v.toNat / 256 ^ 1))
      (BitVec.ofNat 8 (v.toNat / 256 ^ 2)) (BitVec.ofNat 8 (v.toNat / 256 ^ 3)) = v := by
  apply BitVec.eq_of_toNat_eq
  simp only [wordOfBytes, toNat_append_byte, BitVec.toNat_ofNat]
  have := v.isLt
  omega

theorem bufWord_of_lanes {m : Memory} {j : Nat} {v : Word}
    (h : ∀ k, k < 4 → m.read (j + k) = some (BitVec.ofNat 8 (v.toNat / 256 ^ k))) :
    bufWord m j = .ok v := by
  have h0 := h 0 (by omega)
  rw [Nat.add_zero] at h0
  simp only [bufWord, h0, h 1 (by omega), h 2 (by omega), h 3 (by omega), wordOfBytes_lanes]

theorem hostRead_of_lanes {s : State} {off : Offset} {j : Nat} {v : Word} (hidle : s.busy = false)
    (inside : bufIndex s.cfg off = some j)
    (h : ∀ k, k < 4 → s.buf.read (j + k) = some (BitVec.ofNat 8 (v.toNat / 256 ^ k))) :
    hostRead off s = .ok (v, s) := by
  rw [hostRead_inside_idle hidle inside, bufWord_of_lanes h]
  rfl

/-- Settles O15: the word's bytes are written as its lanes and read back as the word. -/
theorem bufWordLanes : Obligations.BufWordLanes := by
  unfold Obligations.BufWordLanes
  intro s off v hidle _ ha hlow hhigh
  have inside : bufIndex s.cfg off = some (off.toNat - 0x1000) := bufIndex_inside ⟨hlow, hhigh⟩
  have lanes (k : Nat) (hk : k < 4) :
      (s.buf.writeList (off.toNat - 0x1000) (wordBytes v)).read (off.toNat - 0x1000 + k) =
        some (BitVec.ofNat 8 (v.toNat / 256 ^ k)) :=
    Memory.read_writeList_mem _ _ _ _ _ (wordBytes_lane v hk)
  refine ⟨_, by rw [hostAccess_write_aligned ha, hostWrite_inside inside, whenIdle_idle hidle], rfl, lanes,
    fun i hi => Memory.read_writeList_other _ _ _ _ hi, hostAccess_read_aligned ha ?_⟩
  exact hostRead_of_lanes hidle inside lanes

/-! ### Unwritten bytes (R55, R411) -/

theorem bufWord_unwritten {m : Memory} {j k : Nat} (hk : k < 4)
    (hbefore : ∀ l, l < k → ∃ b, m.read (j + l) = some b) (h : m.read (j + k) = none) :
    bufWord m j = .error (.uninitBufRead (j + k)) := by
  match k, hk with
  | 0, _ =>
    rw [Nat.add_zero] at h
    simp only [bufWord, h, Nat.add_zero]
  | 1, _ =>
    obtain ⟨b0, h0⟩ := hbefore 0 (by omega)
    rw [Nat.add_zero] at h0
    simp only [bufWord, h0, h]
  | 2, _ =>
    obtain ⟨b0, h0⟩ := hbefore 0 (by omega)
    obtain ⟨b1, h1⟩ := hbefore 1 (by omega)
    rw [Nat.add_zero] at h0
    simp only [bufWord, h0, h1, h]
  | 3, _ =>
    obtain ⟨b0, h0⟩ := hbefore 0 (by omega)
    obtain ⟨b1, h1⟩ := hbefore 1 (by omega)
    obtain ⟨b2, h2⟩ := hbefore 2 (by omega)
    rw [Nat.add_zero] at h0
    simp only [bufWord, h0, h1, h2, h]

theorem hostAccess_read_unwritten {s : State} {off : Offset} {f : Fault} (ha : off.toNat % 4 = 0)
    (h : hostRead off s = .error f) : hostAccess (.read off .word) s = .fault f := by
  simp only [hostAccess, if_pos (admitted_iff.2 ⟨rfl, ha⟩), h]

theorem sendChunkByte_unwritten {two : Bool} {t : Txn} {rest : List Act} {todo : List Stmt} {s : State}
    (h : s.buf.read s.work.i.toNat = none) :
    sendChunkByte two t rest todo s = .fault (.uninitBufRead s.work.i.toNat) := by
  simp only [sendChunkByte, h]

/-- Settles O16: each reader of BUF stops at the byte that is missing. -/
theorem unwrittenByteFaults : Obligations.UnwrittenByteFaults := by
  unfold Obligations.UnwrittenByteFaults
  refine ⟨fun s off k hidle ha hlow hhigh hk hbefore h => ?_, fun s t j m rest todo i hp h hi => ?_,
    fun s t two rest todo hp h => ?_, fun s t rest todo hp hn h => ?_⟩
  · refine hostAccess_read_unwritten ha ?_
    rw [hostRead_inside_idle hidle (bufIndex_inside ⟨hlow, hhigh⟩), bufWord_unwritten hk hbefore h]
    rfl
  · have step : exec i s = wireStep t (.sendBuf j m :: rest) todo s := by
      rcases hi with rfl | rfl
      · exact stepsWire_command rfl t s _ _ hp
      · exact stepsWire_command rfl t s _ _ hp
    rw [step]
    simp only [wireStep, h]
  · exact (stepsWire_command rfl t s _ _ hp).trans (sendChunkByte_unwritten h)
  · have more : ¬ (chunkSent s).work.n = 0 := fun hz => hn (by rw [chunkSent_work] at hz; bv_omega)
    refine (stepsWire_command rfl t s _ _ hp).trans ?_
    rw [wireStep, if_neg nofun, if_neg more]
    exact sendChunkByte_unwritten (s := chunkSent s) h

/-! ### The host agent's list of accesses (R88, R135) -/

section
variable {s t u : State} {off : Offset} {v w : Word}

theorem hostRead_keeps_responses (h : hostRead off s = .ok (v, t)) :
    t.responses = s.responses ∧ t.host = s.host := by
  unfold hostRead at h
  split at h
  · split at h
    · cases h
      exact ⟨rfl, rfl⟩
    · split at h
      · cases h
        exact ⟨rfl, rfl⟩
      · cases h
  · cases h
    exact ⟨rfl, rfl⟩

/-- A read that answered data is a read of the port, and the answer is appended. -/
theorem hostRead_of_answered (h : hostAccess (.read off .word) s = .next u)
    (hu : u.responses = s.responses ++ [.data off v]) :
    admitted off .word = true ∧ ∃ t, hostRead off s = .ok (v, t) ∧ u = respond (.data off v) t := by
  by_cases ha : admitted off .word = true
  case neg =>
    cases (hostAccess_read_not_admitted ha).symm.trans h
    obtain ⟨fs, hbus, -⟩ := busError_spec off s
    rw [hbus] at hu
    cases List.append_cancel_left hu
  case pos =>
    simp only [hostAccess, if_pos ha] at h
    split at h
    · rename_i w t hread
      cases h
      obtain ⟨hresp, -⟩ := hostRead_keeps_responses hread
      have answered : t.responses ++ [.data off w] = s.responses ++ [.data off v] := hu
      rw [hresp] at answered
      cases List.append_cancel_left answered
      exact ⟨ha, t, hread, rfl⟩
    · cases h

theorem pollRound_answered {mask value : Word} {rest : List HostStmt}
    (h : hostAccess (.read off .word) s = .next u) (hu : u.responses = s.responses ++ [.data off v]) :
    pollRound off mask value rest s =
      .next { u with host := if v &&& mask = value then rest else s.host } := by
  obtain ⟨ha, t, hread, rfl⟩ := hostRead_of_answered h hu
  obtain ⟨-, hhost⟩ := hostRead_keeps_responses hread
  simp only [pollRound, if_pos ha, hread]
  split
  · rfl
  · rw [← hhost]
    rfl

theorem windowOffset_inside (c : Config) {k : Nat} (h : k < 0x10000) :
    windowOffset c (c.fseqBase + k) = some (BitVec.ofNat 16 k) := by
  rw [windowOffset, if_pos (by omega), Nat.add_sub_cancel_left]

theorem windowOffset_outside (c : Config) {k : Nat} (h : 0x10000 ≤ k) :
    windowOffset c (c.fseqBase + k) = none :=
  if_neg (by omega)

end

/-- Settles O18: the head of the list is the move. -/
theorem hostRunsInOrder : Obligations.HostRunsInOrder := by
  unfold Obligations.HostRunsInOrder
  intro s rest
  refine ⟨fun a h => ?_, fun off mask value v u h hread hu => ?_, fun off size h hoff => ?_,
    fun off size v h hoff => ?_, fun off size v hoff h => ?_, fun h => ?_⟩
  · simp only [hostStep, h]
  · rw [← pollRound_answered (rest := rest) hread hu]
    simp only [hostStep, h]
  · simp only [hostStep, h, windowOffset_inside s.cfg hoff]
  · simp only [hostStep, h, windowOffset_inside s.cfg hoff]
  · rcases h with h | h
    · simp only [hostStep, h, windowOffset_outside s.cfg hoff]
    · simp only [hostStep, h, windowOffset_outside s.cfg hoff]
  · simp only [hostStep, h]

/-! ### The assembler (R136) -/

theorem assembleLine_in_range {l : HostLine} (h : l.wellFormed = true) :
    assembleLine l = some (expand l) := if_pos h

theorem assembleLine_refused {l : HostLine} (h : l.wellFormed = false) : assembleLine l = none :=
  if_neg (by simp [h])

/-- A line that is well-formed exactly within its range. -/
theorem assembleLine_bounded {l : HostLine} {n b : Nat} (h : l.wellFormed = decide (n < b)) :
    assembleLine l = if n < b then some (expand l) else none := by
  simp only [assembleLine, h, decide_eq_true_eq]

/-- The word of four bytes as their sum. -/
theorem bufwWord_eq_sum {b0 b1 b2 b3 : Nat} (h0 : b0 < 256) (h1 : b1 < 256) (h2 : b2 < 256) :
    b3 <<< 24 ||| b2 <<< 16 ||| b1 <<< 8 ||| b0 = b0 + 256 * b1 + 65536 * b2 + 16777216 * b3 := by
  have low : b1 <<< 8 ||| b0 = b0 + 256 * b1 := by
    rw [← Nat.shiftLeft_add_eq_or_of_lt (i := 8) h0, Nat.shiftLeft_eq]
    omega
  have mid : b2 <<< 16 ||| (b1 <<< 8 ||| b0) = b0 + 256 * b1 + 65536 * b2 := by
    rw [low, ← Nat.shiftLeft_add_eq_or_of_lt (i := 16) (by omega), Nat.shiftLeft_eq]
    omega
  rw [Nat.or_assoc, Nat.or_assoc, mid, ← Nat.shiftLeft_add_eq_or_of_lt (i := 24) (by omega),
    Nat.shiftLeft_eq]
  omega

theorem assembleLine_bufw {w : Nat} {bytes : List Nat} {v : Nat} (hw : 0x1000 + 4 * w < 0x10000)
    (hlen : bytes.length ≤ 4) (hbytes : ∀ b ∈ bytes, b < 256)
    (hv : bytes.getD 3 0 <<< 24 ||| bytes.getD 2 0 <<< 16 ||| bytes.getD 1 0 <<< 8 |||
      bytes.getD 0 0 = v) :
    assembleLine (.bufw (4 * w) bytes) =
      some (.access (.write (BitVec.ofNat 16 (0x1000 + 4 * w)) .word (BitVec.ofNat 32 v))) := by
  have wf : (HostLine.bufw (4 * w) bytes).wellFormed = true := by
    simp only [HostLine.wellFormed, Bool.and_eq_true, decide_eq_true_eq, List.all_eq_true]
    exact ⟨⟨⟨by omega, hw⟩, hlen⟩, hbytes⟩
  rw [assembleLine_in_range wf, expand, w32, bufwWord, hv]

theorem assembleLine_bufw_refused {j : Nat} {bytes : List Nat}
    (h : j % 4 ≠ 0 ∨ 0xF000 ≤ j ∨ 4 < bytes.length ∨ ∃ b ∈ bytes, 256 ≤ b) :
    assembleLine (.bufw j bytes) = none := by
  refine assembleLine_refused (Bool.eq_false_iff.2 fun wf => ?_)
  simp only [HostLine.wellFormed, Bool.and_eq_true, decide_eq_true_eq, List.all_eq_true] at wf
  obtain ⟨⟨⟨hmod, hj⟩, hlen⟩, hbytes⟩ := wf
  rcases h with h | h | h | ⟨b, hb, h⟩
  · exact h hmod
  · omega
  · omega
  · exact absurd (hbytes b hb) (by omega)

/-- Settles O19: each line is tested for its range and expanded. -/
theorem pseudoInstructionsExpand : Obligations.PseudoInstructionsExpand := by
  unfold Obligations.PseudoInstructionsExpand
  refine ⟨fun n => assembleLine_bounded rfl, fun n => assembleLine_bounded rfl,
    fun n => assembleLine_bounded rfl, rfl, rfl, rfl, rfl, rfl, rfl, rfl, rfl, rfl, rfl, rfl, rfl, ?_,
    fun j bs h => assembleLine_bufw_refused h, fun i h => assembleLine_refused h⟩
  intro w b0 b1 b2 b3 hw h0 h1 h2 h3 at4
  have zero : 0 < 256 := by decide
  refine ⟨assembleLine_bufw hw (by simp) (by simp) rfl, assembleLine_bufw hw (by simp) (by simp [h0]) ?_,
    assembleLine_bufw hw (by simp) (by simp [h0, h1]) ?_,
    assembleLine_bufw hw (by simp) (by simp [h0, h1, h2]) ?_,
    assembleLine_bufw hw (by simp) (by simp [h0, h1, h2, h3]) (bufwWord_eq_sum h0 h1 h2)⟩
  · exact bufwWord_eq_sum (b3 := 0) h0 zero zero
  · exact bufwWord_eq_sum (b3 := 0) h0 h1 zero
  · exact bufwWord_eq_sum (b3 := 0) h0 h1 h2

end Sys2Proof.Machine

/-! ## Proofs: RefChip (spec/20_memory.md R96 to R99, spec/44_erase.md R283) -/

namespace Sys2Proof.Machine

open Sys2Proof

/-! ### Reading memories that are cut and joined -/

theorem Memory.read_append (m n : Memory) (i : Nat) :
    Memory.read (m ++ n) i = (m.read i).or (n.read i) := by
  induction m with
  | nil => rfl
  | cons c m ih =>
    obtain ⟨a, b⟩ := c
    rw [List.cons_append, Memory.read, Memory.read]
    split
    · rfl
    · exact ih

theorem Memory.read_filter (p : Nat → Bool) (m : Memory) (i : Nat) :
    Memory.read (m.filter fun c => p c.1) i = if p i then m.read i else none := by
  induction m with
  | nil => simp [Memory.read]
  | cons c m ih =>
    obtain ⟨a, b⟩ := c
    by_cases ha : a = i
    · subst ha
      cases hp : p a <;> simp [hp, Memory.read, ih]
    · cases hp : p a <;> simp [hp, Memory.read, ih, ha]

theorem Memory.read_block (base n i : Nat) (v : Byte) :
    Memory.read ((List.range n).map fun j => (base + j, v)) i =
      if base ≤ i ∧ i < base + n then some v else none := by
  induction n with
  | zero => exact (if_neg (by omega)).symm
  | succ n ih =>
    rw [List.range_succ, List.map_append, Memory.read_append, ih]
    by_cases hin : base ≤ i ∧ i < base + n
    · rw [if_pos hin, if_pos (by omega)]
      rfl
    · rw [if_neg hin, List.map_singleton, Memory.read, Memory.read, Option.none_or]
      exact ite_congr (propext (by omega)) (fun _ => rfl) (fun _ => rfl)

/-! ### The sector of an address, and what the erase leaves (R98) -/

theorem sectorMask_getLsbD : ∀ i < 24, (0xFFF000#24).getLsbD i = decide (12 ≤ i) := by decide

theorem sectorBase_eq (a : Addr) : sectorBase a = a.toNat / 4096 * 4096 := by
  have shifted : a &&& (0xFFF000 : Addr) = (a >>> 12) <<< 12 := by
    apply BitVec.eq_of_getLsbD_eq
    intro i hi
    rw [BitVec.getLsbD_and, BitVec.ofNat_eq_ofNat, sectorMask_getLsbD i hi, BitVec.getLsbD_shiftLeft,
      BitVec.getLsbD_ushiftRight]
    by_cases h : 12 ≤ i
    · simp [h, hi, Nat.not_lt.2 h]
    · simp [h, Nat.not_le.1 h]
  rw [sectorBase, shifted, BitVec.toNat_shiftLeft, BitVec.toNat_ushiftRight, Nat.shiftRight_eq_div_pow,
    Nat.shiftLeft_eq, Nat.mod_eq_of_lt]
  have := a.isLt
  omega

theorem ChipMem.read_eraseSector (m : ChipMem) (a x : Addr) :
    (m.eraseSector a).read x = if x.toNat / 4096 = a.toNat / 4096 then 0xFF else m.read x := by
  have base := sectorBase_eq a
  have block : Memory.read (if m.fillByte = 0xFF then []
      else (List.range sectorBytes).map fun j => (sectorBase a + j, (0xFF : Byte))) x.toNat =
      if m.fillByte ≠ 0xFF ∧ x.toNat / 4096 = a.toNat / 4096 then some 0xFF else none := by
    by_cases hf : m.fillByte = 0xFF
    · simp [hf, Memory.read]
    · rw [if_neg hf, Memory.read_block]
      refine ite_congr (propext ?_) (fun _ => rfl) (fun _ => rfl)
      simp only [ne_eq, hf, not_false_eq_true, true_and, sectorBytes]
      omega
  simp only [ChipMem.read, ChipMem.eraseSector, Memory.read_append, block,
    Memory.read_filter (fun i => decide (i < sectorBase a)),
    Memory.read_filter (fun i => decide (sectorBase a + sectorBytes ≤ i)), decide_eq_true_eq]
  by_cases hin : x.toNat / 4096 = a.toNat / 4096
  case pos =>
    have below : ¬ x.toNat < sectorBase a := by omega
    have above : ¬ sectorBase a + sectorBytes ≤ x.toNat := by simp only [sectorBytes]; omega
    by_cases hf : m.fillByte = 255#8
    · simp [below, above, hin, hf]
    · simp [below, above, hin, hf]
  case neg =>
    by_cases below : x.toNat < sectorBase a
    · have above : ¬ sectorBase a + sectorBytes ≤ x.toNat := by omega
      simp [below, above, hin]
    · have above : sectorBase a + sectorBytes ≤ x.toNat := by simp only [sectorBytes]; omega
      simp [below, above, hin]

/-! ### Programming by AND (R98, R99) -/

section
variable {m : ChipMem} {a x : Addr}

theorem ChipMem.read_program_same (m : ChipMem) (a : Addr) (d : Byte) :
    (m.program a d).read a = m.read a &&& d := ChipMem.read_write_same m a _

theorem ChipMem.read_program_other (d : Byte) (h : x ≠ a) : (m.program a d).read x = m.read x :=
  ChipMem.read_write_other m a x _ h

theorem ChipMem.read_program_pad (m : ChipMem) (a x : Addr) : (m.program a 0xFF).read x = m.read x := by
  by_cases h : x = a
  · rw [h, ChipMem.read_program_same]
    exact BitVec.and_allOnes
  · exact ChipMem.read_program_other _ h

theorem add_one_add_ofNat (a : Addr) (j : Nat) :
    a + 1 + BitVec.ofNat 24 j = a + BitVec.ofNat 24 (j + 1) := by
  rw [BitVec.add_assoc, BitVec.add_comm 1, BitVec.ofNat_add]
  rfl

theorem ChipMem.read_programList_other {ds : List Byte}
    (h : ∀ j, j < ds.length → x ≠ a + BitVec.ofNat 24 j) : (m.programList a ds).read x = m.read x := by
  induction ds generalizing m a with
  | nil => rfl
  | cons d ds ih =>
    have here : x ≠ a := by simpa using h 0 (Nat.zero_lt_succ _)
    refine (ih fun j hj => ?_).trans (ChipMem.read_program_other d here)
    rw [add_one_add_ofNat]
    exact h (j + 1) (Nat.succ_lt_succ hj)

theorem ChipMem.read_programList_mem {ds : List Byte} {j : Nat} {d : Byte} (hlen : ds.length ≤ 2 ^ 24)
    (h : ds[j]? = some d) :
    (m.programList a ds).read (a + BitVec.ofNat 24 j) = m.read (a + BitVec.ofNat 24 j) &&& d := by
  induction ds generalizing m a j with
  | nil => cases h
  | cons e ds ih =>
    rw [List.length_cons] at hlen
    cases j with
    | zero =>
      cases h
      have later (k : Nat) (hk : k < ds.length) : a ≠ a + 1 + BitVec.ofNat 24 k := by
        intro heq
        bv_omega
      rw [BitVec.add_zero, ChipMem.programList, ChipMem.read_programList_other later,
        ChipMem.read_program_same]
    | succ j =>
      have hj : j < ds.length := Nat.lt_of_succ_lt_succ (List.getElem?_eq_some_iff.1 h).1
      have other : a + BitVec.ofNat 24 (j + 1) ≠ a := by
        intro heq
        bv_omega
      have rest := ih (m := m.program a e) (a := a + 1) (j := j) (by omega) h
      rw [add_one_add_ofNat, ChipMem.read_program_other e other] at rest
      exact rest

end

/-! ### RefChip in a transaction (R97, R98) -/

section
variable {chip : RefChip} {cfg : Config} {op : Byte} {head os : List Byte}

theorem countBusy_of_ne (h : chip.sent = op :: head) (hop : op ≠ 0x05) : chip.countBusy = chip := by
  simp only [RefChip.countBusy, h, if_neg hop]

/-- Sent bytes are collected; only a status read counts anything down. -/
theorem converse_refChip (h : chip.sent = op :: head) (hop : op ≠ 0x05) :
    ((Flash.refChip chip).converse cfg os).2 = .refChip { chip with sent := chip.sent ++ os } := by
  induction os generalizing chip head with
  | nil => simp
  | cons o os ih =>
    have answered : ((Flash.refChip chip).answer cfg o).2 =
        .refChip { chip with sent := chip.sent ++ [o] } := by
      simp only [Flash.answer, RefChip.answer, countBusy_of_ne h hop]
    rw [converse_cons, answered, ih (head := head ++ [o]) (by simp [h])]
    simp

/-- The first byte of a transaction. -/
theorem converse_refChip_first (chip : RefChip) (o : Byte) (os : List Byte) :
    (((Flash.refChip chip).select).converse cfg (o :: os)).2 =
      ((Flash.refChip { chip with sent := [o] }).converse cfg os).2 := by
  rfl

/-- A whole transaction that is no status read: RefChip acts on its bytes. -/
theorem afterTxn_refChip {s : State} (h : s.flash = .refChip chip) (hop : op ≠ 0x05) :
    (s.afterTxn (op :: os)).flash =
      .refChip { ({ chip with sent := op :: os } : RefChip).act s.cfg with sent := [] } := by
  simp only [State.afterTxn, h]
  rw [converse_refChip_first, converse_refChip (op := op) (head := []) rfl hop]
  rfl

/-- The opcodes that RefChip tells apart by an earlier test. -/
theorem opcodesDistinct_ne (h : cfg.opcodesDistinct = true) :
    cfg.opWren ≠ 0x05 ∧ (0x20 : Byte) ≠ cfg.opWren ∧ (0x20 : Byte) ≠ cfg.opWrdi ∧
      (0x02 : Byte) ≠ cfg.opWren ∧ (0x02 : Byte) ≠ cfg.opWrdi := by
  have nodup : cfg.opcodes.Nodup := of_decide_eq_true h
  refine ⟨?_, ?_, ?_, ?_, ?_⟩ <;> (intro heq; simp [Config.opcodes, ← heq] at nodup)

theorem addrOf_addrBytesNat (a : Addr) :
    addrOf (BitVec.ofNat 8 (a.toNat / 0x10000)) (BitVec.ofNat 8 (a.toNat / 0x100))
      (BitVec.ofNat 8 a.toNat) = a := by
  apply BitVec.eq_of_toNat_eq
  simp only [addrOf, toNat_append_byte, BitVec.toNat_ofNat]
  have := a.isLt
  omega

theorem act_se (h : chip.sent = 0x20 :: os) (hwren : (0x20 : Byte) ≠ cfg.opWren)
    (hwrdi : (0x20 : Byte) ≠ cfg.opWrdi) : chip.act cfg = chip.seAct os := by
  simp only [RefChip.act, h, if_neg hwren, if_neg hwrdi]
  rfl

theorem act_pp (h : chip.sent = 0x02 :: os) (hwren : (0x02 : Byte) ≠ cfg.opWren)
    (hwrdi : (0x02 : Byte) ≠ cfg.opWrdi) : chip.act cfg = chip.ppAct os := by
  simp only [RefChip.act, h, if_neg hwren, if_neg hwrdi]
  rfl

theorem seAct_enabled (hwel : chip.wel = true) (a : Addr) :
    chip.seAct (addrBytesNat a) =
      { chip with m := chip.m.eraseSector a, wel := false, busyLeft := chip.busyPolls } := by
  simp only [RefChip.seAct, addrBytesNat, if_pos hwel, addrOf_addrBytesNat]

theorem ppAct_enabled (hwel : chip.wel = true) (a : Addr) (d : Byte) (ds : List Byte) :
    chip.ppAct (addrBytesNat a ++ d :: ds) =
      { chip with m := chip.m.programList a (d :: ds), wel := false, busyLeft := chip.busyPolls } := by
  simp only [RefChip.ppAct, addrBytesNat, List.cons_append, List.nil_append, if_pos hwel,
    addrOf_addrBytesNat]

theorem afterTxn_wren {s : State} (h : s.flash = .refChip chip) (hd : s.cfg.opcodesDistinct = true) :
    (s.afterTxn [s.cfg.opWren]).flash = .refChip { chip with wel := true, sent := [] } := by
  obtain ⟨hop, -⟩ := opcodesDistinct_ne hd
  rw [afterTxn_refChip h hop]
  simp [RefChip.act]

theorem afterTxn_se {s : State} (h : s.flash = .refChip chip) (hwel : chip.wel = true)
    (hd : s.cfg.opcodesDistinct = true) (a : Addr) :
    (s.afterTxn ((0x20 : Byte) :: addrBytesNat a)).flash =
      .refChip { chip with m := chip.m.eraseSector a, wel := false, busyLeft := chip.busyPolls,
                           sent := [] } := by
  obtain ⟨-, hwren, hwrdi, -⟩ := opcodesDistinct_ne hd
  rw [afterTxn_refChip h (by decide)]
  rw [act_se rfl hwren hwrdi, seAct_enabled (chip := { chip with sent := 0x20 :: addrBytesNat a }) hwel]

theorem afterTxn_pp {s : State} (h : s.flash = .refChip chip) (hwel : chip.wel = true)
    (hd : s.cfg.opcodesDistinct = true) (a : Addr) {phys : List Byte} (hne : phys ≠ []) :
    (s.afterTxn ((0x02 : Byte) :: addrBytesNat a ++ phys)).flash =
      .refChip { chip with m := chip.m.programList a phys, wel := false, busyLeft := chip.busyPolls,
                           sent := [] } := by
  obtain ⟨-, -, -, hwren, hwrdi⟩ := opcodesDistinct_ne hd
  obtain ⟨d, ds, rfl⟩ := List.exists_cons_of_ne_nil hne
  rw [List.cons_append, afterTxn_refChip h (by decide)]
  rw [act_pp rfl hwren hwrdi, 
    ppAct_enabled (chip := { chip with sent := 0x02 :: (addrBytesNat a ++ d :: ds) }) hwel]

end

/-- Settles O56: the write-enable sets WEL, and 0x20 erases its sector. -/
theorem refChipErasesSector : Obligations.RefChipErasesSector := by
  unfold Obligations.RefChipErasesSector
  intro s chip a h hd
  exact ⟨_, afterTxn_se (afterTxn_wren h hd) rfl hd a, rfl, rfl, chip.m.read_eraseSector a⟩

/-- Settles O57: the write-enable sets WEL, and 0x02 programs its bytes one address after another. -/
theorem refChipPrograms : Obligations.RefChipPrograms := by
  unfold Obligations.RefChipPrograms
  intro s chip a phys h hd hne hlen
  exact ⟨⟨_, afterTxn_pp (afterTxn_wren h hd) rfl hd a hne, fun j d hj => ChipMem.read_programList_mem hlen hj,
    fun x hx => ChipMem.read_programList_other hx⟩, chip.m.read_program_pad⟩

/-! ### Status reads leave RefChip's contents (R97) -/

/-- The device is RefChip with these contents. -/
def Flash.holds (f : Flash) (m : ChipMem) : Prop := ∃ chip, f = .refChip chip ∧ chip.m = m

section
variable {chip : RefChip} {cfg : Config} {m : ChipMem} {s : State}

theorem countBusy_keeps (chip : RefChip) : chip.countBusy.m = chip.m ∧ chip.countBusy.sent = chip.sent := by
  unfold RefChip.countBusy
  split
  · exact ⟨rfl, rfl⟩
  · split
    · exact ⟨rfl, rfl⟩
    · exact ⟨rfl, rfl⟩

theorem converse_keeps_contents (chip : RefChip) (os : List Byte) :
    ∃ chip', ((Flash.refChip chip).converse cfg os).2 = .refChip chip' ∧ chip'.m = chip.m ∧
      chip'.sent = chip.sent ++ os := by
  induction os generalizing chip with
  | nil => exact ⟨chip, rfl, rfl, by simp⟩
  | cons o os ih =>
    obtain ⟨chip', hchip, hm, hsent⟩ := ih (chip.answer cfg o).2
    exact ⟨chip', hchip, hm.trans (countBusy_keeps chip).1, by rw [hsent]; simp [RefChip.answer]⟩

/-- A status read does nothing at its Desel but where its opcode is a write-enable or write-disable. -/
theorem act_rdsr {os : List Byte} (h : chip.sent = 0x05 :: os) : (chip.act cfg).m = chip.m := by
  simp only [RefChip.act, h]
  split
  · rfl
  split
  · rfl
  · rfl

theorem afterTxn_rdsr (h : s.flash.holds m) (os : List Byte) :
    (s.afterTxn ((0x05 : Byte) :: os)).flash.holds m := by
  obtain ⟨chip, hflash, hm⟩ := h
  obtain ⟨chip', hconv, hm', hsent⟩ :=
    converse_keeps_contents (cfg := s.cfg) { chip with sent := [] } (0x05 :: os)
  refine ⟨{ chip'.act s.cfg with sent := [] }, ?_, (act_rdsr hsent).trans (hm'.trans hm)⟩
  simp only [State.afterTxn, hflash, Flash.select, hconv]
  rfl

theorem afterBurst_holds (h : s.flash.holds m) (j : Nat) : (s.afterBurst j).flash.holds m :=
  afterTxn_rdsr h _

theorem windowed_flash (s : State) : s.windowed.flash = s.flash := rfl

theorem restarted_holds (h : s.flash.holds m) : s.restarted.flash.holds m := by
  rw [State.restarted, windowed_flash]
  exact afterBurst_holds h 100

theorem afterRestarts_holds (h : s.flash.holds m) (n : Nat) : (s.afterRestarts n).flash.holds m := by
  induction n generalizing s with
  | zero => exact h
  | succ n ih =>
    rw [State.afterRestarts_succ]
    exact ih (restarted_holds h)

theorem afterWait_holds (h : s.flash.holds m) (x : Wait) : (s.afterWait x).flash.holds m :=
  afterBurst_holds (afterRestarts_holds h x.restarts) x.sample

end

/-! ### What RefChip answers to a read (R97, R341) -/

/-- A read's opcode, and the number of sent bytes between it and the first data byte. -/
def ReadOpcode (op : Byte) (skip : Nat) : Prop := (op = 0x03 ∧ skip = 3) ∨ (op = 0x0B ∧ skip = 4)

theorem ReadOpcode.ne_rdsr {op : Byte} {skip : Nat} (h : ReadOpcode op skip) : op ≠ 0x05 := by
  rcases h with ⟨rfl, -⟩ | ⟨rfl, -⟩
  · decide
  · decide

section
variable {chip : RefChip} {cfg : Config} {op b1 b2 b3 : Byte} {skip : Nat} {more : List Byte} {v : Byte}

theorem readData_addressed (hskip : skip ≤ more.length + 3) :
    chip.readData skip (b1 :: b2 :: b3 :: more) =
      chip.m.read (addrOf b1 b2 b3 + BitVec.ofNat 24 (more.length + 3 - skip)) := by
  simp only [RefChip.readData, List.length_cons]
  exact if_pos hskip

theorem reply_read (hop : ReadOpcode op skip) (h : chip.sent = op :: b1 :: b2 :: b3 :: more)
    (hskip : skip ≤ more.length + 3) :
    chip.reply cfg = chip.m.read (addrOf b1 b2 b3 + BitVec.ofNat 24 (more.length + 3 - skip)) := by
  rcases hop with ⟨rfl, rfl⟩ | ⟨rfl, rfl⟩
  · simp only [RefChip.reply, h]
    exact readData_addressed hskip
  · simp only [RefChip.reply, h]
    exact readData_addressed hskip

/-- Where all the addresses a read reaches hold v, it answers v each time. -/
theorem converse_read (hop : ReadOpcode op skip) (h : chip.sent = op :: b1 :: b2 :: b3 :: more)
    (hskip : skip ≤ more.length + 3) {n : Nat}
    (hv : ∀ k, k < n → chip.m.read (addrOf b1 b2 b3 + BitVec.ofNat 24 (more.length + 3 - skip + k)) = v) :
    ((Flash.refChip chip).converse cfg (List.replicate n cfg.fill)).1 = List.replicate n v := by
  induction n generalizing chip more with
  | zero => rfl
  | succ n ih =>
    have first : ((Flash.refChip chip).answer cfg cfg.fill).1 = v :=
      (reply_read hop h hskip).trans (hv 0 (Nat.zero_lt_succ n))
    have next : ((Flash.refChip chip).answer cfg cfg.fill).2 =
        .refChip { chip with sent := chip.sent ++ [cfg.fill] } := by
      simp only [Flash.answer, RefChip.answer, countBusy_of_ne h hop.ne_rdsr]
    rw [List.replicate_succ, converse_cons, List.replicate_succ, first, next]
    refine congrArg (v :: ·) (ih (more := more ++ [cfg.fill]) (by simp [h]) ?_ fun k hk => ?_)
    · rw [List.length_append]
      omega
    · have shifted : (more ++ [cfg.fill]).length + 3 - skip + k = more.length + 3 - skip + (k + 1) := by
        rw [List.length_append, List.length_singleton]
        omega
      rw [shifted]
      exact hv (k + 1) (Nat.succ_lt_succ hk)

end

theorem readHeader_shape (cfg : Config) (p : Profile) (a : Addr) :
    ∃ op skip more, ReadOpcode op skip ∧ more.length + 3 = skip ∧
      readHeader cfg p a = op :: addrBytesNat a ++ more := by
  cases hf : p.fast with
  | false => exact ⟨0x03, 3, [], .inl ⟨rfl, rfl⟩, rfl, by simp [readHeader, hf]⟩
  | true => exact ⟨0x0B, 4, [cfg.fill], .inr ⟨rfl, rfl⟩, rfl, by simp [readHeader, hf]⟩

/-- A read of addresses that all hold v answers v each time. -/
theorem readData_of_contents {u : State} {m : ChipMem} (h : u.flash.holds m) {a : Addr} {n : Nat} {v : Byte}
    (hv : ∀ k, k < n → m.read (a + BitVec.ofNat 24 k) = v) : u.readData a n = List.replicate n v := by
  obtain ⟨chip, hflash, rfl⟩ := h
  obtain ⟨op, skip, more, hop, hskip, header⟩ := readHeader_shape u.cfg u.profile a
  have headed : (u.flash.select.converse u.cfg (readHeader u.cfg u.profile a)).2 =
      .refChip { chip with sent := op :: addrBytesNat a ++ more } := by
    rw [header, hflash, List.cons_append, converse_refChip_first,
      converse_refChip (op := op) (head := []) rfl hop.ne_rdsr]
    rfl
  have data := State.incoming_headed (s := u) (header := readHeader u.cfg u.profile a) .start n
  refine data.symm.trans ?_
  simp only [State.incoming, State.replies, State.headed, State.ran_flash, State.ran_cfg, headed]
  refine converse_read (more := more) hop rfl (by omega) fun k hk => ?_
  rw [addrOf_addrBytesNat, hskip, Nat.sub_self, Nat.zero_add]
  exact hv k hk

/-! ### Reading an erased sector (R283) -/

/-- A read inside one sector stays in it. -/
theorem sector_of_offset {a : Addr} {n k : Nat} (h : a.toNat % 4096 + n ≤ 4096) (hk : k < n) :
    (a + BitVec.ofNat 24 k).toNat / 4096 = a.toNat / 4096 := by
  have sum : (a + BitVec.ofNat 24 k).toNat = a.toNat + k := by
    have := a.isLt
    rw [BitVec.toNat_add, BitVec.toNat_ofNat]
    omega
  rw [sum]
  omega

theorem eraseSector_holds {s : State} {chip : RefChip} (h : s.flash = .refChip chip)
    (hd : s.cfg.opcodesDistinct = true) (a : Addr) :
    ((s.afterTxn [s.cfg.opWren]).afterTxn ((0x20 : Byte) :: addrBytesNat a)).flash.holds
      (chip.m.eraseSector a) :=
  ⟨_, afterTxn_se (afterTxn_wren h hd) rfl hd a, rfl⟩

/-- Settles O58: the wait leaves the erased contents, whose 0xFF bytes READ stores complemented. -/
theorem erasedSectorReadsZero : Obligations.ErasedSectorReadsZero := by
  unfold Obligations.ErasedSectorReadsZero
  intro s u chip x hs hflash hd ps hold hu hcfg huflash hfit hne hsector hinside
  have erased : u.flash.holds (chip.m.eraseSector s.work.opAddr) :=
    huflash ▸ afterWait_holds (eraseSector_holds hflash hd s.work.opAddr) x
  have data : u.readData u.work.opAddr u.work.opLen.toNat = List.replicate u.work.opLen.toNat 0xFF :=
    readData_of_contents erased fun k hk => by
      rw [ChipMem.read_eraseSector, sector_of_offset hinside hk, if_pos hsector]
  have run := run_read_completes (i := .read) (delim := false) (m := u.work.opLen.toNat)
    (c := u.work.opLen) rfl rfl hu hfit (fun h => hne (BitVec.eq_of_toNat_eq h))
    (State.dataAfter_length _) fun t ht => by rw [resume, ht]; rfl
  refine ⟨_, run, rfl, rfl, fun j hj => ?_⟩
  obtain ⟨p, hp, hread⟩ := (read_store_readData u.buf u.work.opAddr (Nat.le_refl _)).1 j hj
  rw [data, List.getElem?_replicate_of_lt hj] at hp
  cases hp
  exact hread

end Sys2Proof.Machine
